-- ==== Sys2Proof/Word.lean ====
section
/-! DEFINITION. The widths of the sequencer: 32-bit bus words, 8-bit bytes, 6-bit step indices (00_scope.md R13, R15;
10_state.md R22). All values are unsigned (30_encoding.md R95). -/

namespace Sys2Proof

/-- A bus word, 32 bits (00_scope.md R13 `BUS_WIDTH`). -/
abbrev Word := BitVec 32

/-- A byte, 8 bits (00_scope.md R15). -/
abbrev Byte := BitVec 8

/-- An index into the microprogram, 6 bits (10_state.md R22). -/
abbrev StepIx := BitVec 6

end Sys2Proof
end

