-- ==== Sys2Proof/Syntax.lean ====
section
/-! DEFINITION. The names the spec works with: registers, constants, micro-operations (30_encoding.md R92, R93), the rows
of spec/opcode_table.json as the constructors of `Instr`, the composite operations of R112, and the trace vocabulary
(10_state.md R27). -/

namespace Sys2Proof

/-- The thirteen registers of the register map (10_state.md R31). -/
inductive Reg where
  | gppud | gppudclk0
  | uart0Dr | uart0Fr | uart0Ibrd | uart0Fbrd | uart0Lcrh | uart0Cr | uart0Imsc | uart0Icr
  | mboxRead | mboxStatus | mboxWrite
deriving DecidableEq, Repr

/-- All registers, in the order of 10_state.md R31. -/
def Reg.all : List Reg :=
  [.gppud, .gppudclk0, .uart0Dr, .uart0Fr, .uart0Ibrd, .uart0Fbrd, .uart0Lcrh, .uart0Cr, .uart0Imsc, .uart0Icr,
   .mboxRead, .mboxStatus, .mboxWrite]

/-- The 32-bit parameters of `Cfg` an entry of the microprogram may name (00_scope.md R11, R12). -/
inductive Param where
  | pudclkPins | icrAll | ibrdValue | fbrdValue | lcrhValue | imscValue | crValue | uartClockHz
  | frTxff | frRxfe | mboxFull | mboxEmpty
deriving DecidableEq, Repr

/-- A 32-bit constant operand: a literal or a parameter of `Cfg` (30_encoding.md R92). -/
inductive Const where
  | lit (w : Word)
  | param (p : Param)
deriving DecidableEq, Repr

/-- The count operand of `DLY`: a literal or `SETTLE_COUNT` (30_encoding.md R93 format N, 41_delay_and_wait.md R130). -/
inductive Count where
  | lit (n : Nat)
  | settleCount
deriving DecidableEq, Repr

/-- The 13 micro-operation kinds with the operands of their formats (30_encoding.md R92, R93). -/
inductive MicroOp where
  | wr (reg : Reg) (value : Const)
  | wrb (reg : Reg)
  | wrc (reg : Reg)
  | rdb (reg : Reg)
  | dly (count : Count)
  | wtc (reg : Reg) (mask : Const)
  | stw (index : Nat) (value : Const)
  | lcw
  | rdm (reg : Reg) (target : StepIx)
  | bnp (target : StepIx)
  | ldc (byte : Byte)
  | ldg (target : StepIx)
  | jmp (target : StepIx)
deriving DecidableEq, Repr

/-- The rows of spec/opcode_table.json. The 39 step rows have no operand bits (30_encoding.md R91); the reserved rows
carry the free bits of their range (R110); the data-format rows carry the free bits of their word (R96, R97). -/
inductive Instr where
  /-- Step 0, `WR UART0_CR, 0` (R172). -/
  | sCrOff
  /-- Step 1, `WR GPPUD, 0` (R173). -/
  | sPudClr
  /-- Step 2, `DLY SETTLE_COUNT` (R174). -/
  | sDlyA
  /-- Step 3, `WR GPPUDCLK0, PUDCLK_PINS` (R175). -/
  | sPudclkSet
  /-- Step 4, `DLY SETTLE_COUNT` (R176). -/
  | sDlyB
  /-- Step 5, `WR GPPUDCLK0, 0` (R177). -/
  | sPudclkClr
  /-- Step 6, `WR UART0_ICR, ICR_ALL` (R178). -/
  | sIcr
  /-- Step 7, `BNP 22` (R179). -/
  | sNeg
  /-- Step 8, `STW 0, 36` (R145). -/
  | sMbW0
  /-- Step 9, `STW 1, 0` (R146). -/
  | sMbW1
  /-- Step 10, `STW 2, 0x00038002` (R147). -/
  | sMbW2
  /-- Step 11, `STW 3, 12` (R148). -/
  | sMbW3
  /-- Step 12, `STW 4, 8` (R149). -/
  | sMbW4
  /-- Step 13, `STW 5, 2` (R150). -/
  | sMbW5
  /-- Step 14, `STW 6, UART_CLOCK_HZ` (R151). -/
  | sMbW6
  /-- Step 15, `STW 7, 0` (R152). -/
  | sMbW7
  /-- Step 16, `STW 8, 0` (R153). -/
  | sMbW8
  /-- Step 17, `LCW` (R154). -/
  | sMbCw
  /-- Step 18, `WTC MBOX_STATUS, MBOX_FULL` (R155). -/
  | sMbWfull
  /-- Step 19, `WRC MBOX_WRITE` (R156). -/
  | sMbSend
  /-- Step 20, `WTC MBOX_STATUS, MBOX_EMPTY` (R157). -/
  | sMbWempty
  /-- Step 21, `RDM MBOX_READ, 20` (R158). -/
  | sMbRecv
  /-- Step 22, `WR UART0_IBRD, IBRD_VALUE` (R180). -/
  | sIbrd
  /-- Step 23, `WR UART0_FBRD, FBRD_VALUE` (R181). -/
  | sFbrd
  /-- Step 24, `WR UART0_LCRH, LCRH_VALUE` (R182). -/
  | sLcrh
  /-- Step 25, `WR UART0_IMSC, IMSC_VALUE` (R183). -/
  | sImsc
  /-- Step 26, `WR UART0_CR, CR_VALUE` (R184). -/
  | sCrOn
  /-- Step 27, `LDG 31` (R211). -/
  | sGrNext
  /-- Step 28, `WTC UART0_FR, FR_TXFF` (R212). -/
  | sGrWtx
  /-- Step 29, `WRB UART0_DR` (R213). -/
  | sGrSend
  /-- Step 30, `JMP 27` (R214). -/
  | sGrLoop
  /-- Step 31, `WTC UART0_FR, FR_RXFE` (R215). -/
  | sEcWrx
  /-- Step 32, `RDB UART0_DR` (R216). -/
  | sEcRecv
  /-- Step 33, `WTC UART0_FR, FR_TXFF` (R217). -/
  | sEcWtx1
  /-- Step 34, `WRB UART0_DR` (R218). -/
  | sEcSend1
  /-- Step 35, `LDC 0x0A` (R219). -/
  | sEcNl
  /-- Step 36, `WTC UART0_FR, FR_TXFF` (R220). -/
  | sEcWtx2
  /-- Step 37, `WRB UART0_DR` (R221). -/
  | sEcSend2
  /-- Step 38, `JMP 31` (R222). -/
  | sEcLoop
  /-- Reserved step index 39 (R110). -/
  | reserved39
  /-- Reserved step indices 40 to 47, pattern `101xxx` (R110). -/
  | reserved40To47 (x : BitVec 3)
  /-- Reserved step indices 48 to 63, pattern `11xxxx` (R110). -/
  | reserved48To63 (x : BitVec 4)
  /-- The channel word, bits 31:4 free, bits 3:0 = 8 (R96). -/
  | channelWord (a : BitVec 28)
  /-- Mailbox word 0, `byteLength` = 36 (R97). -/
  | mboxWord0
  /-- Mailbox word 1, `requestCode` = 0 (R97). -/
  | mboxWord1
  /-- Mailbox word 2, `tagId` = 0x00038002 (R97). -/
  | mboxWord2
  /-- Mailbox word 3, `tagBufferSize` = 12 (R97). -/
  | mboxWord3
  /-- Mailbox word 4, `tagRequestResponseSize` = 8 (R97). -/
  | mboxWord4
  /-- Mailbox word 5, `clockId` = 2 (R97). -/
  | mboxWord5
  /-- Mailbox word 6, `rateHz`, any word (R97). -/
  | mboxWord6 (r : Word)
  /-- Mailbox word 7, third value word = 0 (R97, 92 D13). -/
  | mboxWord7
  /-- Mailbox word 8, `endTag` = 0 (R97). -/
  | mboxWord8
deriving DecidableEq, Repr

/-- The composite operations of the source (30_encoding.md R112). -/
inductive Composite where
  | mmioWriteConst (reg : Reg) (value : Const)
  | mmioWriteByte (reg : Reg)
  | mmioWriteChannel (reg : Reg)
  | delay (n : Count)
  | waitClear (reg : Reg) (mask : Const)
  | mboxCall
  | uartInit
  | putc
  | getc
  | puts (bytes : List Byte)
  | putsGreeting
  | main
deriving DecidableEq, Repr

/-- Whether an access reads or writes (60_exceptions.md R230, `F_BUS(addr, kind)`). -/
inductive Access where
  | read | write
deriving DecidableEq, Repr

/-- The events of the trace (10_state.md R27). -/
inductive Event where
  /-- A 32-bit bus write. -/
  | busW (addr : Word) (value : Word)
  /-- A 32-bit bus read and the word returned. -/
  | busR (addr : Word) (value : Word)
  /-- A store of word `index` of the mailbox buffer. -/
  | bufW (index : Nat) (value : Word)
  /-- A delay of `count` iterations. -/
  | delay (count : Nat)
deriving DecidableEq, Repr

end Sys2Proof
end

