-- ==== Sys2Proof/Config.lean ====
section
/-! DEFINITION. The constants the spec fixes (00_scope.md R13), the parameters it leaves OPEN as plain data (R9 to R12),
and the free constants of the model: the configuration of the machine at reset and the values no rule of the spec
determines. None of the `opaque` constants has a body, so nothing can be proved about its value. -/

namespace Sys2Proof

namespace Config

/-- `MBOX_WORDS` (00_scope.md R13). -/
def mboxWords : Nat := 9
/-- The length of the mailbox buffer in bytes: 9 words of 4 bytes (10_state.md R47). -/
def mboxBytes : Nat := 36
/-- `MBOX_CHANNEL` (00_scope.md R13). -/
def mboxChannel : Word := 8#32
/-- `REQUEST_CODE` (00_scope.md R13). -/
def requestCode : Word := 0#32
/-- `TAG_SET_CLOCK_RATE` (00_scope.md R13). -/
def tagSetClockRate : Word := 0x00038002#32
/-- `TAG_BUF_SIZE` (00_scope.md R13, 90_conflicts.md C1). -/
def tagBufSize : Word := 12#32
/-- `TAG_REQ_SIZE` (00_scope.md R13). -/
def tagReqSize : Word := 8#32
/-- `CLOCK_ID_UART` (00_scope.md R13). -/
def clockIdUart : Word := 2#32
/-- `END_TAG` (00_scope.md R13). -/
def endTag : Word := 0#32
/-- Word 0 of the message, the total byte length (30_encoding.md R97). -/
def byteLength : Word := 36#32
/-- Word 7 of the message, the third value word (30_encoding.md R97, 92 D13). -/
def thirdValueWord : Word := 0#32
/-- `NEWLINE` (00_scope.md R13). -/
def newline : Byte := 0x0A#8
/-- `BUF_ALIGN` in bytes (00_scope.md R13). -/
def bufAlign : Nat := 16
/-- `NUM_BOARDS` (00_scope.md R13); recorded and used by no rule (92 D6). -/
def numBoards : Nat := 5

end Config

/-- A board profile (00_scope.md R9). -/
structure BoardProfile where
  /-- `BASE_ADDRESS`. -/
  baseAddress : Word
  /-- `REQUIRES_CLOCK_NEGOTIATION`. -/
  requiresClockNegotiation : Bool
deriving DecidableEq, Repr, Inhabited

/-- A run of addresses, both ends included: the parameter `MAPPED` is given as a list of these (00_scope.md R12;
DESIGN CHOICE, log 10: every set of 32-bit addresses is such a list). -/
structure AddrRange where
  first : Word
  last : Word
deriving DecidableEq, Repr, Inhabited

/-- The OPEN parameters other than the board profile (00_scope.md R10, R11, R12). -/
structure Params where
  offGppud : Word
  offGppudclk0 : Word
  offUart0Dr : Word
  offUart0Fr : Word
  offUart0Ibrd : Word
  offUart0Fbrd : Word
  offUart0Lcrh : Word
  offUart0Cr : Word
  offUart0Imsc : Word
  offUart0Icr : Word
  offMboxRead : Word
  offMboxStatus : Word
  offMboxWrite : Word
  frTxff : Word
  frRxfe : Word
  mboxFull : Word
  mboxEmpty : Word
  pudclkPins : Word
  icrAll : Word
  ibrdValue : Word
  fbrdValue : Word
  lcrhValue : Word
  imscValue : Word
  crValue : Word
  settleCount : Nat
  uartClockHz : Word
  greeting : List Byte
  mboxBufAddr : Word
  mapped : List AddrRange
deriving DecidableEq, Repr, Inhabited

/-- The clauses of 00_scope.md R14 that `F_CONFIG` reports; clause (b) is `F_ALIGN` (60_exceptions.md R233, R234). -/
inductive Clause where
  | a | c | d | e | f | g
deriving DecidableEq, Repr

/-- Why a configuration is refused (60_exceptions.md R230, codes 2 and 3). -/
inductive CfgError where
  | align (addr : Word)
  | clause (k : Clause)
deriving DecidableEq, Repr

namespace Config

/-- The board profile of the machine at reset: unknown (DESIGN CHOICE, log 3; 00_scope.md R9 leaves it OPEN). -/
opaque boardProfile : BoardProfile

/-- The other parameters of the machine at reset: unknown (DESIGN CHOICE, log 3; 00_scope.md R10 to R12 leave them OPEN). -/
opaque boardParams : Params

/-- The environment's oracle `Env.read(trace, addr)`: any word (10_state.md R44, 92 D26; log 4). -/
opaque envRead : List Event → Word → Word

/-- What word `i` of the mailbox buffer holds while it is unspecified: any word, drawn anew as the trace grows
(10_state.md R47, R48, 93 U12, U13; log 6). -/
opaque unspecifiedWord : List Event → Nat → Word

/-- The byte `LDG` loads when `si` lies beyond the greeting, a state no run reaches (44_uart_io.md R191; log 8). -/
opaque pastGreeting : Nat → Byte

end Config

end Sys2Proof
end

