-- ==== Sys2Proof/Machine/Microprogram.lean ====
section
/-! DEFINITION. The microprogram of 30_encoding.md R100: the entry (kind, operands) of every step row, and the composite
operations of the source as lists of micro-operations (R101, R112). -/

namespace Sys2Proof

/-- The entry of a step row (30_encoding.md R91, R100). The reserved rows have none (R110), and the data-format rows are
no entries (R96, R97). -/
def Instr.entry : Instr → Option MicroOp
  | .sCrOff => some (.wr .uart0Cr (.lit 0#32))
  | .sPudClr => some (.wr .gppud (.lit 0#32))
  | .sDlyA => some (.dly .settleCount)
  | .sPudclkSet => some (.wr .gppudclk0 (.param .pudclkPins))
  | .sDlyB => some (.dly .settleCount)
  | .sPudclkClr => some (.wr .gppudclk0 (.lit 0#32))
  | .sIcr => some (.wr .uart0Icr (.param .icrAll))
  | .sNeg => some (.bnp 22#6)
  | .sMbW0 => some (.stw 0 (.lit Config.byteLength))
  | .sMbW1 => some (.stw 1 (.lit Config.requestCode))
  | .sMbW2 => some (.stw 2 (.lit Config.tagSetClockRate))
  | .sMbW3 => some (.stw 3 (.lit Config.tagBufSize))
  | .sMbW4 => some (.stw 4 (.lit Config.tagReqSize))
  | .sMbW5 => some (.stw 5 (.lit Config.clockIdUart))
  | .sMbW6 => some (.stw 6 (.param .uartClockHz))
  | .sMbW7 => some (.stw 7 (.lit Config.thirdValueWord))
  | .sMbW8 => some (.stw 8 (.lit Config.endTag))
  | .sMbCw => some .lcw
  | .sMbWfull => some (.wtc .mboxStatus (.param .mboxFull))
  | .sMbSend => some (.wrc .mboxWrite)
  | .sMbWempty => some (.wtc .mboxStatus (.param .mboxEmpty))
  | .sMbRecv => some (.rdm .mboxRead 20#6)
  | .sIbrd => some (.wr .uart0Ibrd (.param .ibrdValue))
  | .sFbrd => some (.wr .uart0Fbrd (.param .fbrdValue))
  | .sLcrh => some (.wr .uart0Lcrh (.param .lcrhValue))
  | .sImsc => some (.wr .uart0Imsc (.param .imscValue))
  | .sCrOn => some (.wr .uart0Cr (.param .crValue))
  | .sGrNext => some (.ldg 31#6)
  | .sGrWtx => some (.wtc .uart0Fr (.param .frTxff))
  | .sGrSend => some (.wrb .uart0Dr)
  | .sGrLoop => some (.jmp 27#6)
  | .sEcWrx => some (.wtc .uart0Fr (.param .frRxfe))
  | .sEcRecv => some (.rdb .uart0Dr)
  | .sEcWtx1 => some (.wtc .uart0Fr (.param .frTxff))
  | .sEcSend1 => some (.wrb .uart0Dr)
  | .sEcNl => some (.ldc Config.newline)
  | .sEcWtx2 => some (.wtc .uart0Fr (.param .frTxff))
  | .sEcSend2 => some (.wrb .uart0Dr)
  | .sEcLoop => some (.jmp 31#6)
  | .reserved39 => none
  | .reserved40To47 _ => none
  | .reserved48To63 _ => none
  | .channelWord _ => none
  | .mboxWord0 => none
  | .mboxWord1 => none
  | .mboxWord2 => none
  | .mboxWord3 => none
  | .mboxWord4 => none
  | .mboxWord5 => none
  | .mboxWord6 _ => none
  | .mboxWord7 => none
  | .mboxWord8 => none

/-- The step rows 0 to 7: the initialization up to the profile test (30_encoding.md R101). -/
def rowsSetup : List Instr :=
  [.sCrOff, .sPudClr, .sDlyA, .sPudclkSet, .sDlyB, .sPudclkClr, .sIcr, .sNeg]

/-- The step rows 8 to 21: the mailbox exchange (30_encoding.md R101). -/
def rowsMailbox : List Instr :=
  [.sMbW0, .sMbW1, .sMbW2, .sMbW3, .sMbW4, .sMbW5, .sMbW6, .sMbW7, .sMbW8,
   .sMbCw, .sMbWfull, .sMbSend, .sMbWempty, .sMbRecv]

/-- The step rows 22 to 26: the rest of the initialization (30_encoding.md R101). -/
def rowsConfigure : List Instr := [.sIbrd, .sFbrd, .sLcrh, .sImsc, .sCrOn]

/-- The step rows 27 to 30: the greeting (30_encoding.md R101). -/
def rowsGreeting : List Instr := [.sGrNext, .sGrWtx, .sGrSend, .sGrLoop]

/-- The step rows 31 to 38: the body of the echo loop (30_encoding.md R101). -/
def rowsEcho : List Instr :=
  [.sEcWrx, .sEcRecv, .sEcWtx1, .sEcSend1, .sEcNl, .sEcWtx2, .sEcSend2, .sEcLoop]

/-- The 39 step rows in the order of their indices (30_encoding.md R100). -/
def stepRows : List Instr := rowsSetup ++ rowsMailbox ++ rowsConfigure ++ rowsGreeting ++ rowsEcho

/-- The entries of some rows. -/
def entriesOf (rows : List Instr) : List MicroOp := rows.filterMap Instr.entry

/-- The expansion of a composite operation (30_encoding.md R112; 40 R126, 41 R131, R133, 42 R159, 43 R185, 44 R193 to R195,
45 R210). -/
def Composite.expand : Composite → List MicroOp
  | .mmioWriteConst reg value => [.wr reg value]
  | .mmioWriteByte reg => [.wrb reg]
  | .mmioWriteChannel reg => [.wrc reg]
  | .delay n => [.dly n]
  | .waitClear reg mask => [.wtc reg mask]
  | .mboxCall => entriesOf rowsMailbox
  | .uartInit => entriesOf (rowsSetup ++ rowsMailbox ++ rowsConfigure)
  | .putc => [.wtc .uart0Fr (.param .frTxff), .wrb .uart0Dr]
  | .getc => [.wtc .uart0Fr (.param .frRxfe), .rdb .uart0Dr]
  | .puts bytes => bytes.flatMap fun b => [.ldc b, .wtc .uart0Fr (.param .frTxff), .wrb .uart0Dr]
  | .putsGreeting => [.ldg 31#6, .wtc .uart0Fr (.param .frTxff), .wrb .uart0Dr, .jmp 27#6]
  | .main => entriesOf stepRows

end Sys2Proof
end

