-- ==== Sys2Proof/Machine/Operands.lean ====
section
/-! DEFINITION. Operand assembly (30_encoding.md R94, R95): register addresses, buffer addresses, widening and narrowing
between bytes and words, the channel word (R96), and the value a constant operand stands for. -/

namespace Sys2Proof

/-- The offset parameter of a register (00_scope.md R10). -/
def Params.off (p : Params) : Reg → Word
  | .gppud => p.offGppud
  | .gppudclk0 => p.offGppudclk0
  | .uart0Dr => p.offUart0Dr
  | .uart0Fr => p.offUart0Fr
  | .uart0Ibrd => p.offUart0Ibrd
  | .uart0Fbrd => p.offUart0Fbrd
  | .uart0Lcrh => p.offUart0Lcrh
  | .uart0Cr => p.offUart0Cr
  | .uart0Imsc => p.offUart0Imsc
  | .uart0Icr => p.offUart0Icr
  | .mboxRead => p.offMboxRead
  | .mboxStatus => p.offMboxStatus
  | .mboxWrite => p.offMboxWrite

/-- `addr(REG) = BASE_ADDRESS + OFF_REG` (10_state.md R31, 30_encoding.md R94). -/
def regAddr (b : BoardProfile) (p : Params) (r : Reg) : Word := b.baseAddress + p.off r

/-- `MBOX_BUF_ADDR + 4 * index`, the byte address of word `index` of the buffer (30_encoding.md R94). -/
def bufWordAddr (buf : Word) (index : Nat) : Word := buf + BitVec.ofNat 32 (4 * index)

/-- Is the address in the run? -/
def AddrRange.contains (g : AddrRange) (a : Word) : Bool := g.first.toNat ≤ a.toNat && a.toNat ≤ g.last.toNat

/-- Is the address in `MAPPED` (00_scope.md R12)? -/
def Params.isMapped (p : Params) (a : Word) : Bool := p.mapped.any (fun g => g.contains a)

/-- `zext_32(b)` (00_scope.md R15, 40_mmio_primitives.md R123). -/
def zext32 (b : Byte) : Word := b.setWidth 32

/-- `v[7:0]` (40_mmio_primitives.md R125). -/
def low8 (v : Word) : Byte := v.setWidth 8

/-- `(bufferAddress & ~0xF) | channelNumber` with channel 8 (30_encoding.md R96, 42_mailbox.md R143). -/
def channelWordOf (buf : Word) : Word := (buf &&& 0xFFFFFFF0#32) ||| Config.mboxChannel

/-- The value of a named parameter (00_scope.md R11, R12). -/
def Param.eval (p : Params) : Param → Word
  | .pudclkPins => p.pudclkPins
  | .icrAll => p.icrAll
  | .ibrdValue => p.ibrdValue
  | .fbrdValue => p.fbrdValue
  | .lcrhValue => p.lcrhValue
  | .imscValue => p.imscValue
  | .crValue => p.crValue
  | .uartClockHz => p.uartClockHz
  | .frTxff => p.frTxff
  | .frRxfe => p.frRxfe
  | .mboxFull => p.mboxFull
  | .mboxEmpty => p.mboxEmpty

/-- The value of a constant operand (30_encoding.md R92). -/
def Const.eval (p : Params) : Const → Word
  | .lit w => w
  | .param q => q.eval p

/-- The value of a count operand (41_delay_and_wait.md R130). -/
def Count.eval (p : Params) : Count → Nat
  | .lit n => n
  | .settleCount => p.settleCount

/-- The four bytes of a word, least significant first (20_memory.md R62). -/
def wordBytes (v : Word) : List Byte :=
  [v.extractLsb' 0 8, v.extractLsb' 8 8, v.extractLsb' 16 8, v.extractLsb' 24 8]

/-- The word whose bytes are given, least significant first (20_memory.md R62). -/
def wordOfBytes (b0 b1 b2 b3 : Byte) : Word := b3 ++ b2 ++ b1 ++ b0

end Sys2Proof
end

