-- ==== Sys2Proof/Machine/Setup.lean ====
section
/-! DEFINITION. The configuration record `Cfg` and its well-formedness (00_scope.md R8, R14), checked once, when the
configuration is built and in the order of 60_exceptions.md R243. A `Cfg` carries the proof that its check passed, so a
configuration that is not well formed has no run: no state holds one (R233, R234; log 2). -/

namespace Sys2Proof

/-- How many bits of a word are set. -/
def popCount (w : Word) : Nat := ((List.range 32).filter (fun i => w.getLsbD i)).length

/-- Clause (b): the buffer starts at a 16-byte boundary (20_memory.md R65). -/
def alignedBuffer (p : Params) : Bool := p.mboxBufAddr.toNat % Config.bufAlign == 0

/-- Clause (c): base and offsets are multiples of 4, the offsets pairwise distinct (20_memory.md R64). -/
def clauseC (b : BoardProfile) (p : Params) : Bool :=
  b.baseAddress.toNat % 4 == 0 && Reg.all.all (fun r => (p.off r).toNat % 4 == 0)
    && decide (Reg.all.map p.off).Nodup

/-- Clause (d): no address sum reaches 2^32 (92 D20). -/
def clauseD (b : BoardProfile) (p : Params) : Bool :=
  Reg.all.all (fun r => decide (b.baseAddress.toNat + (p.off r).toNat < 2 ^ 32))
    && decide (p.mboxBufAddr.toNat + Config.mboxBytes ≤ 2 ^ 32)

/-- Clause (e): one bit per mask, the two masks of a register differ (92 D7). -/
def clauseE (p : Params) : Bool :=
  popCount p.frTxff == 1 && popCount p.frRxfe == 1 && popCount p.mboxFull == 1 && popCount p.mboxEmpty == 1
    && p.frTxff != p.frRxfe && p.mboxFull != p.mboxEmpty

/-- Clause (f): two pins, three enable bits. -/
def clauseF (p : Params) : Bool := popCount p.pudclkPins == 2 && popCount p.crValue == 3

/-- Clause (g): the 36 bytes of the buffer overlap no register (92 D20). -/
def clauseG (b : BoardProfile) (p : Params) : Bool :=
  Reg.all.all (fun r =>
    decide (p.mboxBufAddr.toNat + Config.mboxBytes ≤ (regAddr b p r).toNat)
      || decide ((regAddr b p r).toNat + 4 ≤ p.mboxBufAddr.toNat))

/-- The checks after clause (a): alignment, then clauses (c) to (g); the first that fails is reported
(60_exceptions.md R243). -/
def cfgCheck (b : BoardProfile) (p : Params) : Option CfgError :=
  if !alignedBuffer p then some (.align p.mboxBufAddr)
  else if !clauseC b p then some (.clause .c)
  else if !clauseD b p then some (.clause .d)
  else if !clauseE p then some (.clause .e)
  else if !clauseF p then some (.clause .f)
  else if !clauseG b p then some (.clause .g)
  else none

/-- A well-formed configuration (00_scope.md R8, R14): one board profile and the parameters, with their check passed. -/
structure Cfg where
  profile : BoardProfile
  params : Params
  ok : cfgCheck profile params = none
deriving DecidableEq, Repr

/-- Build a configuration from the board profiles selected and the parameters. Clause (a), exactly one profile, comes
first (60_exceptions.md R243). -/
def Cfg.build (profiles : List BoardProfile) (p : Params) : Except CfgError Cfg :=
  match profiles with
  | [b] =>
    match h : cfgCheck b p with
    | none => .ok ⟨b, p, h⟩
    | some e => .error e
  | _ => .error (.clause .a)

/-- `addr(REG)` of a configuration. -/
def Cfg.addr (c : Cfg) (r : Reg) : Word := regAddr c.profile c.params r

/-- `MBOX_BUF_ADDR` of a configuration. -/
def Cfg.bufAddr (c : Cfg) : Word := c.params.mboxBufAddr

/-- `GREETING_LEN` of a configuration. -/
def Cfg.greetingLen (c : Cfg) : Nat := c.params.greeting.length

/-- Is the address in `MAPPED`? -/
def Cfg.isMapped (c : Cfg) (a : Word) : Bool := c.params.isMapped a

/-- May a word be stored at `a`: are `a .. a+3` all in `MAPPED` (42_mailbox.md R142)? -/
def Cfg.isMappedWord (c : Cfg) (a : Word) : Bool :=
  c.isMapped a && c.isMapped (a + 1#32) && c.isMapped (a + 2#32) && c.isMapped (a + 3#32)

namespace Config

/-- A board profile that, with `witnessParams`, passes the check. It is no board of the spec; it only shows that a
well-formed configuration exists (log 3). -/
def witnessProfile : BoardProfile := { baseAddress := 0#32, requiresClockNegotiation := true }

/-- Parameters that pass the check; no value of them is the spec's (log 3). -/
def witnessParams : Params where
  offGppud := 0#32
  offGppudclk0 := 4#32
  offUart0Dr := 8#32
  offUart0Fr := 12#32
  offUart0Ibrd := 16#32
  offUart0Fbrd := 20#32
  offUart0Lcrh := 24#32
  offUart0Cr := 28#32
  offUart0Imsc := 32#32
  offUart0Icr := 36#32
  offMboxRead := 40#32
  offMboxStatus := 44#32
  offMboxWrite := 48#32
  frTxff := 1#32
  frRxfe := 2#32
  mboxFull := 1#32
  mboxEmpty := 2#32
  pudclkPins := 3#32
  icrAll := 0#32
  ibrdValue := 0#32
  fbrdValue := 0#32
  lcrhValue := 0#32
  imscValue := 0#32
  crValue := 7#32
  settleCount := 0
  uartClockHz := 0#32
  greeting := []
  mboxBufAddr := 64#32
  mapped := []

/-- The configuration of the machine at reset: the unknown one, where it is well formed (DESIGN CHOICE, log 3). Which
branch is taken cannot be proved, so no claim about this configuration rests on a value. -/
def machine : Cfg :=
  if h : cfgCheck boardProfile boardParams = none then ⟨boardProfile, boardParams, h⟩
  else ⟨witnessProfile, witnessParams, by decide⟩

end Config

end Sys2Proof
end

