-- ==== Sys2Proof/WellFormed.lean ====
section
/-! DEFINITION. Well-formed micro-operations and rows: the operand constraints of 30_encoding.md R92, R93 and 42_mailbox.md
R142. The well-formedness of a configuration (00_scope.md R14) stands in Machine/Setup.lean. -/

namespace Sys2Proof

/-- A target is a step index 0 to 38 (30_encoding.md R92). -/
def targetOk (t : StepIx) : Bool := t.toNat ≤ 38

/-- A buffer index is 0 to 8 (30_encoding.md R93, 42_mailbox.md R142). -/
def indexOk (i : Nat) : Bool := i < Config.mboxWords

/-- A mask is a constant with exactly one bit set: a literal that has one, or one of the four flag masks, which clause (e)
of 00_scope.md R14 holds to one bit (30_encoding.md R93). -/
def maskOk : Const → Bool
  | .lit w => popCount w == 1
  | .param .frTxff => true
  | .param .frRxfe => true
  | .param .mboxFull => true
  | .param .mboxEmpty => true
  | .param _ => false

/-- The operands of a micro-operation are such as its format allows (30_encoding.md R93). -/
def MicroOp.wf : MicroOp → Bool
  | .wr _ _ => true
  | .wrb _ => true
  | .wrc _ => true
  | .rdb _ => true
  | .dly _ => true
  | .wtc _ mask => maskOk mask
  | .stw index _ => indexOk index
  | .lcw => true
  | .rdm _ target => targetOk target
  | .bnp target => targetOk target
  | .ldc _ => true
  | .ldg target => targetOk target
  | .jmp target => targetOk target

/-- A row is well formed when its entry is; a row without an entry has no operand to check. -/
def Instr.wf (i : Instr) : Bool :=
  match i.entry with
  | some op => op.wf
  | none => true

end Sys2Proof
end

