-- ==== Sys2Proof/Decode.lean ====
section
/-! DEFINITION. Decoding (30_encoding.md R91, R96, R97, R110) and, after it, the encoder. A step row's encoding is its 6-bit
index and the decoder of a step is the table lookup; a data-format word is read by the place it stands in, since the same
32 bits mean different things in different words of the message. -/

namespace Sys2Proof

/-- Encoded bits with the place that gives them their format: a step index, the channel word, or word `k` of the mailbox
message. -/
inductive Code where
  | step (index : StepIx)
  | channel (word : Word)
  | message (k : Fin 9) (word : Word)
deriving DecidableEq, Repr

/-- Why bits are no row of the table. -/
inductive DecodeError where
  /-- Bits 3:0 are not channel 8 (30_encoding.md R96, R111). -/
  | notChannelEight (word : Word)
  /-- Word `k` of the message holds another value than the request's (30_encoding.md R97, R111). -/
  | notRequestWord (k : Fin 9) (word : Word)
deriving DecidableEq, Repr

/-- The table lookup `step -> entry`; indices 39 to 63 give the reserved rows `100111`, `101xxx` and `11xxxx`
(30_encoding.md R91, R110). -/
def decodeStep (index : StepIx) : Instr :=
  match stepRows[index.toNat]? with
  | some i => i
  | none =>
    if index.toNat = 39 then .reserved39
    else if index.toNat < 48 then .reserved40To47 (index.setWidth 3)
    else .reserved48To63 (index.setWidth 4)

/-- A word in the place of the channel word (30_encoding.md R96). -/
def decodeChannel (w : Word) : Except DecodeError Instr :=
  if w.extractLsb' 0 4 = 8#4 then .ok (.channelWord (w.extractLsb' 4 28)) else .error (.notChannelEight w)

/-- Accept `w` as word `k` if it is the word the request has there. -/
def requestWord (k : Fin 9) (w expected : Word) (row : Instr) : Except DecodeError Instr :=
  if w = expected then .ok row else .error (.notRequestWord k w)

/-- A word in the place of word `k` of the message (30_encoding.md R97). -/
def decodeMessage (k : Fin 9) (w : Word) : Except DecodeError Instr :=
  match k with
  | 0 => requestWord 0 w Config.byteLength .mboxWord0
  | 1 => requestWord 1 w Config.requestCode .mboxWord1
  | 2 => requestWord 2 w Config.tagSetClockRate .mboxWord2
  | 3 => requestWord 3 w Config.tagBufSize .mboxWord3
  | 4 => requestWord 4 w Config.tagReqSize .mboxWord4
  | 5 => requestWord 5 w Config.clockIdUart .mboxWord5
  | 6 => .ok (.mboxWord6 w)
  | 7 => requestWord 7 w Config.thirdValueWord .mboxWord7
  | 8 => requestWord 8 w Config.endTag .mboxWord8

/-- Decode bits in their place. -/
def decode : Code → Except DecodeError Instr
  | .step index => .ok (decodeStep index)
  | .channel w => decodeChannel w
  | .message k w => decodeMessage k w

/-- The rows a bare 32-bit word can stand for, most particular first. The table gives words 1, 7 and 8 of the message the
same bits, and word 4 bits that are also a channel word; without its place a word is read as the first row of this order
that it fits (DESIGN CHOICE, log 9). -/
def wordPlaces : List (Word → Code) :=
  [.message 0, .message 2, .message 3, .message 4, .message 5, .message 1, .channel, .message 6]

/-- The first place in which the word is a row of the table. -/
def decodeBareWord (w : Word) : List (Word → Code) → Option Instr
  | [] => none
  | place :: rest =>
    match decode (place w) with
    | .ok i => some i
    | .error _ => decodeBareWord w rest

/-- The instruction read from an instruction whose bits are `w`, numbered as spec/opcode_table.json numbers them: a byte
holds a step index in its low six bits, a longer word is a data-format word. -/
def decodeTableWord (nbits w : Nat) : Option Instr :=
  if nbits ≤ 8 then (if w < 64 then some (decodeStep (BitVec.ofNat 6 w)) else none)
  else if w < 2 ^ 32 then decodeBareWord (BitVec.ofNat 32 w) wordPlaces
  else none

/-- The bits of a row, in their place: the inverse of `decode` (30_encoding.md R96, R97, R100, R110). -/
def encode : Instr → Code
  | .sCrOff => .step 0#6
  | .sPudClr => .step 1#6
  | .sDlyA => .step 2#6
  | .sPudclkSet => .step 3#6
  | .sDlyB => .step 4#6
  | .sPudclkClr => .step 5#6
  | .sIcr => .step 6#6
  | .sNeg => .step 7#6
  | .sMbW0 => .step 8#6
  | .sMbW1 => .step 9#6
  | .sMbW2 => .step 10#6
  | .sMbW3 => .step 11#6
  | .sMbW4 => .step 12#6
  | .sMbW5 => .step 13#6
  | .sMbW6 => .step 14#6
  | .sMbW7 => .step 15#6
  | .sMbW8 => .step 16#6
  | .sMbCw => .step 17#6
  | .sMbWfull => .step 18#6
  | .sMbSend => .step 19#6
  | .sMbWempty => .step 20#6
  | .sMbRecv => .step 21#6
  | .sIbrd => .step 22#6
  | .sFbrd => .step 23#6
  | .sLcrh => .step 24#6
  | .sImsc => .step 25#6
  | .sCrOn => .step 26#6
  | .sGrNext => .step 27#6
  | .sGrWtx => .step 28#6
  | .sGrSend => .step 29#6
  | .sGrLoop => .step 30#6
  | .sEcWrx => .step 31#6
  | .sEcRecv => .step 32#6
  | .sEcWtx1 => .step 33#6
  | .sEcSend1 => .step 34#6
  | .sEcNl => .step 35#6
  | .sEcWtx2 => .step 36#6
  | .sEcSend2 => .step 37#6
  | .sEcLoop => .step 38#6
  | .reserved39 => .step 39#6
  | .reserved40To47 x => .step (0b101#3 ++ x)
  | .reserved48To63 x => .step (0b11#2 ++ x)
  | .channelWord a => .channel (a ++ 8#4)
  | .mboxWord0 => .message 0 Config.byteLength
  | .mboxWord1 => .message 1 Config.requestCode
  | .mboxWord2 => .message 2 Config.tagSetClockRate
  | .mboxWord3 => .message 3 Config.tagBufSize
  | .mboxWord4 => .message 4 Config.tagReqSize
  | .mboxWord5 => .message 5 Config.clockIdUart
  | .mboxWord6 r => .message 6 r
  | .mboxWord7 => .message 7 Config.thirdValueWord
  | .mboxWord8 => .message 8 Config.endTag

end Sys2Proof
end

