-- ==== Sys2Proof/Machine/Flags.lean ====
section
/-! DEFINITION. The block has no flags of its own (10_state.md R30). What it computes in their place are the two tests it
makes on a word it has just read: the mask test of a poll and the equality of the mailbox receive (30_encoding.md R95 c, d). -/

namespace Sys2Proof

/-- The polled condition `(rd & mask) = 0` (41_delay_and_wait.md R132). -/
def pollClear (v mask : Word) : Bool := v &&& mask == 0#32

/-- The receive condition `rd = cw`, all 32 bits (42_mailbox.md R144). -/
def matchesChannel (v cw : Word) : Bool := v == cw

end Sys2Proof
end

