-- ==== Sys2Proof/Machine/State.lean ====
section
/-! DEFINITION. The state of the sequencer, `S = (step, rd, ch, cw, si, buf, trace, fault)` of 10_state.md R21, with the
configuration it runs on (00_scope.md R8) and the pending answers of the environment (70_reset_and_hazards.md R268); the
reasons a step can stop; the state after reset (10_state.md R50, 70_reset_and_hazards.md R260). -/

namespace Sys2Proof.Machine

/-- A working register: the spec's own state "no step has written it yet", written `-` in 95 V00, or a value. A read of
an unwritten `ch` or `cw` raises `F_UNINIT`, as the spec states (10_state.md R50, 60_exceptions.md R236); only
the way of writing it down is the model's (log 5). -/
inductive Latch (w : Nat) where
  | unwritten
  | holds (v : BitVec w)
deriving DecidableEq, Repr

/-- The working registers a step may find unwritten (60_exceptions.md R230, `F_UNINIT(name)`). -/
inductive LatchName where
  | ch | cw
deriving DecidableEq, Repr

/-- The ordinary memory behind the mailbox buffer: (address, byte) pairs, addresses strictly rising. An address that is
not listed has no value: its content is unspecified (10_state.md R47, R48, R50; log 6). -/
abbrev Memory := List Host.Cell

/-- The faults a step can raise (60_exceptions.md R230, codes 1, 4 and 5). A step that raises one answers a next state
whose `fault` field holds it (R231); a step from such a state answers the outcome `fault` with it, since the sequencer
takes no further step. Stopping there is safe. -/
inductive Fault where
  /-- `F_BUS(addr, kind)`: an access outside `MAPPED`. Raised by WR, WRB, WRC, RDB, WTC, RDM, STW. Safe. -/
  | fBus (addr : Word) (kind : Access)
  /-- `F_STEP(step)`: no micro-operation has this index. Raised at the fetch of indices 39 to 63. Safe. -/
  | fStep (index : StepIx)
  /-- `F_UNINIT(name)`: `ch` or `cw` is read before any step has written it, which the spec makes a fault (10_state.md R50,
  40 R123, R124, 42 R144, 60_exceptions.md R236, 93 U17). Raised by WRB, WRC, RDM. Safe. -/
  | fUninit (name : LatchName)
deriving DecidableEq, Repr

/-- Why the model gives no run. -/
inductive Refusal where
  /-- An instruction without a meaning in this model; no arm answers it. Safe. -/
  | notModelled (mnemonic : String)
  /-- `F_ALIGN(addr)`: the configuration's buffer is misaligned (60_exceptions.md R233). Answered by `boot`. Safe. -/
  | fAlign (addr : Word)
  /-- `F_CONFIG(reason)`: the configuration breaks another clause of 00_scope.md R14 (60_exceptions.md R234). Answered by
  `boot`. Safe. -/
  | fConfig (reason : Clause)
deriving DecidableEq, Repr

/-- The answers the environment has ready for reads of one address: a finite queue, then one word for ever, or the free
oracle where no such word is given (70_reset_and_hazards.md R268; log 4). -/
structure EnvQueue where
  addr : Word
  queue : List Word
  after : Option Word
deriving DecidableEq, Repr

/-- The scripted part of the environment. -/
abbrev Script := List EnvQueue

/-- The state of the machine. -/
structure State where
  /-- The configuration; no step changes it (00_scope.md R8). -/
  cfg : Cfg
  /-- The program counter (10_state.md R22). -/
  step : StepIx
  /-- The read latch (10_state.md R23). -/
  rd : Latch 32
  /-- The byte latch (10_state.md R24). -/
  ch : Latch 8
  /-- The channel-word register (10_state.md R25). -/
  cw : Latch 32
  /-- The string index (10_state.md R26). -/
  si : Nat
  /-- The mailbox buffer, as bytes (10_state.md R47). -/
  mem : Memory
  /-- The events performed, oldest first (10_state.md R27). -/
  trace : List Event
  /-- The sticky fault (10_state.md R28). -/
  fault : Option Fault
  /-- The model's own field: what the environment will answer (log 4). -/
  script : Script
deriving DecidableEq, Repr

/-- The state after reset of a machine with configuration `c` and scripted environment `sc` (70_reset_and_hazards.md R260). -/
def State.initial (c : Cfg) (sc : Script) : State where
  cfg := c
  step := 0#6
  rd := .unwritten
  ch := .unwritten
  cw := .unwritten
  si := 0
  mem := []
  trace := []
  fault := none
  script := sc

/-- The machine right after reset: an unknown well-formed configuration, no scripted answer (log 3, log 4). -/
def State.reset : State := State.initial Config.machine []

end Sys2Proof.Machine
end

