-- ==== Sys2Proof/Machine/Ops.lean ====
section
/-! DEFINITION. The shared operations: memory and its canonical form, the environment's answers, the two bus primitives
`MmioWrite` and `MmioRead` (40_mmio_primitives.md R120, R121), the buffer store (20_memory.md R62, 42_mailbox.md R142),
handing the buffer over (10_state.md R48), raising a fault (60_exceptions.md R231) and starting a machine. -/

namespace Sys2Proof.Machine

/-- The outcome of a step of this machine. -/
abbrev Result := Host.Outcome State Fault Refusal

/-! ## Memory -/

/-- Every address of the memory is at least `lo`, and they rise strictly. -/
def Memory.wfFrom : Nat → Memory → Bool
  | _, [] => true
  | lo, (a, _) :: m => decide (lo ≤ a) && Memory.wfFrom (a + 1) m

/-- The canonical form: addresses strictly rising. No entry can equal what an unlisted address reads as, since that is no
value at all. -/
def Memory.wf (m : Memory) : Bool := Memory.wfFrom 0 m

/-- The byte at an address, where it is specified. -/
def Memory.read (m : Memory) (a : Nat) : Option Byte :=
  match m with
  | [] => none
  | (k, v) :: rest => if k = a then some v else Memory.read rest a

/-- Store one byte. -/
def Memory.write (m : Memory) (a : Nat) (b : Byte) : Memory :=
  match m with
  | [] => [(a, b)]
  | (k, v) :: rest =>
    if a < k then (a, b) :: (k, v) :: rest
    else if a = k then (a, b) :: rest
    else (k, v) :: Memory.write rest a b

/-- Store bytes at consecutive addresses, the first at `a`. -/
def Memory.writeBytes (m : Memory) (a : Nat) : List Byte → Memory
  | [] => m
  | b :: bs => Memory.writeBytes (m.write a b) (a + 1) bs

/-- `MemWrite(a, 4, v)`: a 32-bit store, little-endian (20_memory.md R62). -/
def Memory.writeWord (m : Memory) (a : Nat) (v : Word) : Memory := m.writeBytes a (wordBytes v)

/-- The word at an address, where all four of its bytes are specified (20_memory.md R62). -/
def Memory.readWord (m : Memory) (a : Nat) : Option Word :=
  match m.read a, m.read (a + 1), m.read (a + 2), m.read (a + 3) with
  | some b0, some b1, some b2, some b3 => some (wordOfBytes b0 b1 b2 b3)
  | _, _, _, _ => none

/-- The bytes `lo .. lo + n - 1` become unspecified. -/
def Memory.forget (m : Memory) (lo n : Nat) : Memory := m.filter (fun c => !(decide (lo ≤ c.1) && decide (c.1 < lo + n)))

/-! ## The environment -/

/-- The scripted answer to a read of `a`, where there is one: the head of the queue, else the word that follows it
(70_reset_and_hazards.md R268). The first entry for an address counts. -/
def Script.answer : Script → Word → Option Word
  | [], _ => none
  | e :: rest, a =>
    if e.addr = a then
      match e.queue with
      | v :: _ => some v
      | [] => e.after
    else Script.answer rest a

/-- A read of `a` takes the head off the queue of `a`. -/
def Script.pop : Script → Word → Script
  | [], _ => []
  | e :: rest, a => if e.addr = a then { e with queue := e.queue.tail } :: rest else e :: Script.pop rest a

/-- `Env.read(trace, addr)` (10_state.md R44): the scripted answer, else whatever the oracle says. -/
def State.envAnswer (s : State) (a : Word) : Word :=
  match Script.answer s.script a with
  | some v => v
  | none => Config.envRead s.trace a

/-! ## Moving on, recording, stopping -/

/-- `step <- step + 1`. -/
def State.advance (s : State) : State := { s with step := s.step + 1#6 }

/-- `step <- target`. -/
def State.goto (s : State) (target : StepIx) : State := { s with step := target }

/-- `trace <- trace ++ [e]`. -/
def State.emit (s : State) (e : Event) : State := { s with trace := s.trace ++ [e] }

/-- `raise F(info)`: `fault <- F(info)` and nothing else; the sequencer takes no further step (60_exceptions.md R231,
R244). This is the block's whole "exception entry", and there is no return from it (R245). -/
def State.raise (s : State) (f : Fault) : State := { s with fault := some f }

/-- Finish a micro-operation begun in `s`: its effects if it raised nothing, else the fault alone (60_exceptions.md R231). -/
def conclude (s : State) (r : Except Fault State) : Result :=
  .next (match r with
    | .ok t => t
    | .error f => s.raise f)

/-! ## Reading the working registers -/

/-- Read `ch`: "if ch is unwritten then raise F_UNINIT(ch)" (40_mmio_primitives.md R123, 10_state.md R50, 60_exceptions.md
R236). -/
def readCh (s : State) : Except Fault Byte :=
  match s.ch with
  | .unwritten => .error (.fUninit .ch)
  | .holds b => .ok b

/-- Read `cw`: "if cw is unwritten then raise F_UNINIT(cw)" (40_mmio_primitives.md R124, 42_mailbox.md R144, 10_state.md R50,
60_exceptions.md R236). -/
def readCw (s : State) : Except Fault Word :=
  match s.cw with
  | .unwritten => .error (.fUninit .cw)
  | .holds w => .ok w

/-! ## The bus -/

/-- `MmioWrite(REG, v)` (40_mmio_primitives.md R120). -/
def mmioWrite (reg : Reg) (v : Word) (s : State) : Except Fault State :=
  let a := s.cfg.addr reg
  if s.cfg.isMapped a then .ok (s.emit (.busW a v)) else .error (.fBus a .write)

/-- `MmioRead(REG)` (40_mmio_primitives.md R121): the word read and the state after the read. -/
def mmioRead (reg : Reg) (s : State) : Except Fault (Word × State) :=
  let a := s.cfg.addr reg
  if s.cfg.isMapped a then
    let v := s.envAnswer a
    .ok (v, { s.emit (.busR a v) with script := Script.pop s.script a })
  else .error (.fBus a .read)

/-- `BufWrite(i, v)` (00_scope.md R15, 20_memory.md R62, 42_mailbox.md R142): all four bytes mapped, or `F_BUS`. -/
def bufWrite (index : Nat) (v : Word) (s : State) : Except Fault State :=
  let a := bufWordAddr s.cfg.bufAddr index
  if s.cfg.isMappedWord a then
    .ok ({ s with mem := s.mem.writeWord a.toNat v }.emit (.bufW index v))
  else .error (.fBus a .write)

/-- A bus write to `MBOX_WRITE` hands the 36 bytes of the buffer to the firmware; what they hold is unspecified from then
on (10_state.md R48, 42_mailbox.md R156, R160; log 6). A write to another register leaves the buffer alone. -/
def handOver (reg : Reg) (s : State) : State :=
  match reg with
  | .mboxWrite => { s with mem := s.mem.forget s.cfg.bufAddr.toNat Config.mboxBytes }
  | _ => s

/-! ## Starting a machine -/

/-- Configure a machine and reset it: the reset state of a well-formed configuration, else the refusal `F_ALIGN` or
`F_CONFIG` and no run (60_exceptions.md R230, R233, R234, R243; log 2). -/
def boot (profiles : List BoardProfile) (p : Params) (sc : Script) : Result :=
  match Cfg.build profiles p with
  | .ok c => .next (State.initial c sc)
  | .error (.align a) => .refused (.fAlign a)
  | .error (.clause k) => .refused (.fConfig k)

/-- Start the initialization again: `step <- 0`, everything else kept (43_uart_init.md R188, 92 D39). No step of the
microprogram does this. -/
def State.restart (s : State) : State := s.goto 0#6

/-- The codes of 60_exceptions.md R230; labels, no register holds them (92 D32). -/
def Fault.code : Fault → Nat
  | .fBus _ _ => 1
  | .fStep _ => 4
  | .fUninit _ => 5

/-- The codes of the two configuration faults (60_exceptions.md R230). -/
def Refusal.code : Refusal → Option Nat
  | .fAlign _ => some 2
  | .fConfig _ => some 3
  | _ => none

end Sys2Proof.Machine
end

