-- ==== Sys2Proof/Machine/MicroOps.lean ====
section
/-! DEFINITION. The 13 micro-operation kinds, one operation each, over evaluated operands (30_encoding.md R92). Every row of
the microprogram is one of these. All of them answer a next state: a fault is the next state that holds it. -/

namespace Sys2Proof.Machine

/-- `WR reg, value` (40_mmio_primitives.md R122). -/
def opWr (reg : Reg) (value : Word) (s : State) : Result :=
  conclude s ((mmioWrite reg value s).map State.advance)

/-- `WRB reg` (40_mmio_primitives.md R123). -/
def opWrb (reg : Reg) (s : State) : Result :=
  conclude s ((readCh s).bind fun b => (mmioWrite reg (zext32 b) s).map State.advance)

/-- `WRC reg` (40_mmio_primitives.md R124; the hand-over of 10_state.md R48). -/
def opWrc (reg : Reg) (s : State) : Result :=
  conclude s ((readCw s).bind fun w => (mmioWrite reg w s).map fun t => (handOver reg t).advance)

/-- `RDB reg` (40_mmio_primitives.md R125). -/
def opRdb (reg : Reg) (s : State) : Result :=
  conclude s ((mmioRead reg s).map fun (v, t) =>
    { t with rd := .holds v, ch := .holds (low8 v) }.advance)

/-- `DLY count` (41_delay_and_wait.md R130). -/
def opDly (count : Nat) (s : State) : Result := .next (s.emit (.delay count)).advance

/-- `WTC reg, mask` (41_delay_and_wait.md R132): while the bit is set the step index does not change, and the same step is
executed again. -/
def opWtc (reg : Reg) (mask : Word) (s : State) : Result :=
  conclude s ((mmioRead reg s).map fun (v, t) =>
    let u := { t with rd := .holds v }
    if pollClear v mask then u.advance else u)

/-- `STW index, value` (42_mailbox.md R142). -/
def opStw (index : Nat) (value : Word) (s : State) : Result :=
  conclude s ((bufWrite index value s).map State.advance)

/-- `LCW` (42_mailbox.md R143). -/
def opLcw (s : State) : Result :=
  .next { s with cw := .holds (channelWordOf s.cfg.bufAddr) }.advance

/-- `RDM reg, target` (42_mailbox.md R144). -/
def opRdm (reg : Reg) (target : StepIx) (s : State) : Result :=
  conclude s ((readCw s).bind fun w => (mmioRead reg s).map fun (v, t) =>
    let u := { t with rd := .holds v }
    if matchesChannel v w then u.advance else u.goto target)

/-- `BNP target` (43_uart_init.md R171). -/
def opBnp (target : StepIx) (s : State) : Result :=
  .next (if s.cfg.profile.requiresClockNegotiation then s.advance else s.goto target)

/-- `LDC byte` (44_uart_io.md R190). -/
def opLdc (byte : Byte) (s : State) : Result := .next { s with ch := .holds byte }.advance

/-- Byte `i` of the greeting, numbered from 0 (44_uart_io.md R191). Beyond the greeting, where no run comes, any byte
(DESIGN CHOICE, log 8). -/
def greetingByte (c : Cfg) (i : Nat) : Byte :=
  match c.params.greeting[i]? with
  | some b => b
  | none => Config.pastGreeting i

/-- `LDG target` (44_uart_io.md R191). -/
def opLdg (target : StepIx) (s : State) : Result :=
  .next (if s.si = s.cfg.greetingLen then s.goto target
    else { s with ch := .holds (greetingByte s.cfg s.si), si := s.si + 1 }.advance)

/-- `JMP target` (44_uart_io.md R192). -/
def opJmp (target : StepIx) (s : State) : Result := .next (s.goto target)

/-- A step index without an entry: `F_STEP(index)` (30_encoding.md R110, 60_exceptions.md R235). -/
def opReserved (index : StepIx) (s : State) : Result := .next (s.raise (.fStep index))

/-- The channel word `w` is put into `cw`, as `LCW` does with the word it computes (30_encoding.md R96; log 9). -/
def opLoadChannel (w : Word) (s : State) : Result := .next { s with cw := .holds w }.advance

/-- A micro-operation with its operands evaluated against the configuration (30_encoding.md R92). -/
def runMicroOp (op : MicroOp) (s : State) : Result :=
  match op with
  | .wr reg value => opWr reg (value.eval s.cfg.params) s
  | .wrb reg => opWrb reg s
  | .wrc reg => opWrc reg s
  | .rdb reg => opRdb reg s
  | .dly count => opDly (count.eval s.cfg.params) s
  | .wtc reg mask => opWtc reg (mask.eval s.cfg.params) s
  | .stw index value => opStw index (value.eval s.cfg.params) s
  | .lcw => opLcw s
  | .rdm reg target => opRdm reg target s
  | .bnp target => opBnp target s
  | .ldc byte => opLdc byte s
  | .ldg target => opLdg target s
  | .jmp target => opJmp target s

end Sys2Proof.Machine
end

