-- ==== Sys2Proof/Machine/DataFormats.lean ====
section
/-! DEFINITION. The data-format rows of the opcode table (30_encoding.md R96, R97). They are words, not micro-operations: no step
fetches one. Each is given the transfer the spec describes for that word, with the operation that makes it in the
microprogram: a message word is stored in its place in the buffer (42_mailbox.md R142), a channel word is loaded into `cw`
(42_mailbox.md R143). DESIGN CHOICE, log 9. -/

namespace Sys2Proof.Machine

/-- `CHANNEL_WORD` (30_encoding.md R96): the word `{a, 8}` becomes the channel word. -/
def execChannelWord (a : BitVec 28) (s : State) : Result := opLoadChannel (a ++ 8#4) s

/-- `MBOX_WORD0`, `byteLength` (30_encoding.md R97): the word is stored as word 0 of the buffer. -/
def execMboxWord0 (s : State) : Result := opStw 0 Config.byteLength s

/-- `MBOX_WORD1`, `requestCode` (30_encoding.md R97): the word is stored as word 1 of the buffer. -/
def execMboxWord1 (s : State) : Result := opStw 1 Config.requestCode s

/-- `MBOX_WORD2`, `tagId` (30_encoding.md R97): the word is stored as word 2 of the buffer. -/
def execMboxWord2 (s : State) : Result := opStw 2 Config.tagSetClockRate s

/-- `MBOX_WORD3`, `tagBufferSize` (30_encoding.md R97): the word is stored as word 3 of the buffer. -/
def execMboxWord3 (s : State) : Result := opStw 3 Config.tagBufSize s

/-- `MBOX_WORD4`, `tagRequestResponseSize` (30_encoding.md R97): the word is stored as word 4 of the buffer. -/
def execMboxWord4 (s : State) : Result := opStw 4 Config.tagReqSize s

/-- `MBOX_WORD5`, `clockId` (30_encoding.md R97): the word is stored as word 5 of the buffer. -/
def execMboxWord5 (s : State) : Result := opStw 5 Config.clockIdUart s

/-- `MBOX_WORD6`, `rateHz` (30_encoding.md R97): the word is stored as word 6 of the buffer. -/
def execMboxWord6 (r : Word) (s : State) : Result := opStw 6 r s

/-- `MBOX_WORD7`, `valueWord2` (30_encoding.md R97): the word is stored as word 7 of the buffer. -/
def execMboxWord7 (s : State) : Result := opStw 7 Config.thirdValueWord s

/-- `MBOX_WORD8`, `endTag` (30_encoding.md R97): the word is stored as word 8 of the buffer. -/
def execMboxWord8 (s : State) : Result := opStw 8 Config.endTag s

end Sys2Proof.Machine
end

