-- ==== Sys2Proof/Machine/EchoLoop.lean ====
section
/-! DEFINITION. The greeting and the echo loop, steps 27 to 38 (45_echo_loop.md R211 to R222). -/

namespace Sys2Proof.Machine

/-- Step 27, `S_GR_NEXT`: `LDG 31` (45_echo_loop.md R211; kind R191). -/
def execSGrNext (s : State) : Result := opLdg 31#6 s

/-- Step 28, `S_GR_WTX`: `WTC UART0_FR, FR_TXFF` (45_echo_loop.md R212; kind R132). -/
def execSGrWtx (s : State) : Result := opWtc .uart0Fr s.cfg.params.frTxff s

/-- Step 29, `S_GR_SEND`: `WRB UART0_DR` (45_echo_loop.md R213; kind R123). -/
def execSGrSend (s : State) : Result := opWrb .uart0Dr s

/-- Step 30, `S_GR_LOOP`: `JMP 27` (45_echo_loop.md R214; kind R192). -/
def execSGrLoop (s : State) : Result := opJmp 27#6 s

/-- Step 31, `S_EC_WRX`: `WTC UART0_FR, FR_RXFE` (45_echo_loop.md R215; kind R132). -/
def execSEcWrx (s : State) : Result := opWtc .uart0Fr s.cfg.params.frRxfe s

/-- Step 32, `S_EC_RECV`: `RDB UART0_DR` (45_echo_loop.md R216; kind R125). -/
def execSEcRecv (s : State) : Result := opRdb .uart0Dr s

/-- Step 33, `S_EC_WTX1`: `WTC UART0_FR, FR_TXFF` (45_echo_loop.md R217; kind R132). -/
def execSEcWtx1 (s : State) : Result := opWtc .uart0Fr s.cfg.params.frTxff s

/-- Step 34, `S_EC_SEND1`: `WRB UART0_DR` (45_echo_loop.md R218; kind R123). -/
def execSEcSend1 (s : State) : Result := opWrb .uart0Dr s

/-- Step 35, `S_EC_NL`: `LDC 0x0A` (45_echo_loop.md R219; kind R190). -/
def execSEcNl (s : State) : Result := opLdc Config.newline s

/-- Step 36, `S_EC_WTX2`: `WTC UART0_FR, FR_TXFF` (45_echo_loop.md R220; kind R132). -/
def execSEcWtx2 (s : State) : Result := opWtc .uart0Fr s.cfg.params.frTxff s

/-- Step 37, `S_EC_SEND2`: `WRB UART0_DR` (45_echo_loop.md R221; kind R123). -/
def execSEcSend2 (s : State) : Result := opWrb .uart0Dr s

/-- Step 38, `S_EC_LOOP`: `JMP 31` (45_echo_loop.md R222; kind R192). -/
def execSEcLoop (s : State) : Result := opJmp 31#6 s

end Sys2Proof.Machine
end

