-- ==== Sys2Proof/Machine/Mailbox.lean ====
section
/-! DEFINITION. The mailbox exchange, steps 8 to 21 (42_mailbox.md R145 to R158). -/

namespace Sys2Proof.Machine

/-- Step 8, `S_MB_W0`: `STW 0, 36` (42_mailbox.md R145; kind R142). -/
def execSMbW0 (s : State) : Result := opStw 0 Config.byteLength s

/-- Step 9, `S_MB_W1`: `STW 1, 0` (42_mailbox.md R146; kind R142). -/
def execSMbW1 (s : State) : Result := opStw 1 Config.requestCode s

/-- Step 10, `S_MB_W2`: `STW 2, 0x00038002` (42_mailbox.md R147; kind R142). -/
def execSMbW2 (s : State) : Result := opStw 2 Config.tagSetClockRate s

/-- Step 11, `S_MB_W3`: `STW 3, 12` (42_mailbox.md R148; kind R142). -/
def execSMbW3 (s : State) : Result := opStw 3 Config.tagBufSize s

/-- Step 12, `S_MB_W4`: `STW 4, 8` (42_mailbox.md R149; kind R142). -/
def execSMbW4 (s : State) : Result := opStw 4 Config.tagReqSize s

/-- Step 13, `S_MB_W5`: `STW 5, 2` (42_mailbox.md R150; kind R142). -/
def execSMbW5 (s : State) : Result := opStw 5 Config.clockIdUart s

/-- Step 14, `S_MB_W6`: `STW 6, UART_CLOCK_HZ` (42_mailbox.md R151; kind R142). -/
def execSMbW6 (s : State) : Result := opStw 6 s.cfg.params.uartClockHz s

/-- Step 15, `S_MB_W7`: `STW 7, 0` (42_mailbox.md R152; kind R142). -/
def execSMbW7 (s : State) : Result := opStw 7 Config.thirdValueWord s

/-- Step 16, `S_MB_W8`: `STW 8, 0` (42_mailbox.md R153; kind R142). -/
def execSMbW8 (s : State) : Result := opStw 8 Config.endTag s

/-- Step 17, `S_MB_CW`: `LCW` (42_mailbox.md R154; kind R143). -/
def execSMbCw (s : State) : Result := opLcw s

/-- Step 18, `S_MB_WFULL`: `WTC MBOX_STATUS, MBOX_FULL` (42_mailbox.md R155; kind R132). -/
def execSMbWfull (s : State) : Result := opWtc .mboxStatus s.cfg.params.mboxFull s

/-- Step 19, `S_MB_SEND`: `WRC MBOX_WRITE` (42_mailbox.md R156; kind R124). -/
def execSMbSend (s : State) : Result := opWrc .mboxWrite s

/-- Step 20, `S_MB_WEMPTY`: `WTC MBOX_STATUS, MBOX_EMPTY` (42_mailbox.md R157; kind R132). -/
def execSMbWempty (s : State) : Result := opWtc .mboxStatus s.cfg.params.mboxEmpty s

/-- Step 21, `S_MB_RECV`: `RDM MBOX_READ, 20` (42_mailbox.md R158; kind R144). -/
def execSMbRecv (s : State) : Result := opRdm .mboxRead 20#6 s

end Sys2Proof.Machine
end

