-- ==== Sys2Proof/Machine/Reserved.lean ====
section
/-! DEFINITION. The reserved step indices 39 to 63 (30_encoding.md R110): their meaning is the fault `F_STEP` (60_exceptions.md
R235), taken as the spec describes it. -/

namespace Sys2Proof.Machine

/-- `RESERVED_39_39`, pattern `100111` (30_encoding.md R110, 60_exceptions.md R235). -/
def execReserved39 (s : State) : Result := opReserved 39#6 s

/-- `RESERVED_40_47`, pattern `101xxx` (30_encoding.md R110, 60_exceptions.md R235). -/
def execReserved40To47 (x : BitVec 3) (s : State) : Result := opReserved (0b101#3 ++ x) s

/-- `RESERVED_48_63`, pattern `11xxxx` (30_encoding.md R110, 60_exceptions.md R235). -/
def execReserved48To63 (x : BitVec 4) (s : State) : Result := opReserved (0b11#2 ++ x) s

end Sys2Proof.Machine
end

