-- ==== Sys2Proof/Machine/UartInit.lean ====
section
/-! DEFINITION. The UART initialization, steps 0 to 7 and 22 to 26 (43_uart_init.md R172 to R184). -/

namespace Sys2Proof.Machine

/-- Step 0, `S_CR_OFF`: `WR UART0_CR, 0x00000000` (43_uart_init.md R172; kind R122). -/
def execSCrOff (s : State) : Result := opWr .uart0Cr 0#32 s

/-- Step 1, `S_PUD_CLR`: `WR GPPUD, 0x00000000` (43_uart_init.md R173; kind R122). -/
def execSPudClr (s : State) : Result := opWr .gppud 0#32 s

/-- Step 2, `S_DLY_A`: `DLY SETTLE_COUNT` (43_uart_init.md R174; kind R130). -/
def execSDlyA (s : State) : Result := opDly s.cfg.params.settleCount s

/-- Step 3, `S_PUDCLK_SET`: `WR GPPUDCLK0, PUDCLK_PINS` (43_uart_init.md R175; kind R122). -/
def execSPudclkSet (s : State) : Result := opWr .gppudclk0 s.cfg.params.pudclkPins s

/-- Step 4, `S_DLY_B`: `DLY SETTLE_COUNT` (43_uart_init.md R176; kind R130). -/
def execSDlyB (s : State) : Result := opDly s.cfg.params.settleCount s

/-- Step 5, `S_PUDCLK_CLR`: `WR GPPUDCLK0, 0x00000000` (43_uart_init.md R177; kind R122). -/
def execSPudclkClr (s : State) : Result := opWr .gppudclk0 0#32 s

/-- Step 6, `S_ICR`: `WR UART0_ICR, ICR_ALL` (43_uart_init.md R178; kind R122). -/
def execSIcr (s : State) : Result := opWr .uart0Icr s.cfg.params.icrAll s

/-- Step 7, `S_NEG`: `BNP 22` (43_uart_init.md R179; kind R171). -/
def execSNeg (s : State) : Result := opBnp 22#6 s

/-- Step 22, `S_IBRD`: `WR UART0_IBRD, IBRD_VALUE` (43_uart_init.md R180; kind R122). -/
def execSIbrd (s : State) : Result := opWr .uart0Ibrd s.cfg.params.ibrdValue s

/-- Step 23, `S_FBRD`: `WR UART0_FBRD, FBRD_VALUE` (43_uart_init.md R181; kind R122). -/
def execSFbrd (s : State) : Result := opWr .uart0Fbrd s.cfg.params.fbrdValue s

/-- Step 24, `S_LCRH`: `WR UART0_LCRH, LCRH_VALUE` (43_uart_init.md R182; kind R122). -/
def execSLcrh (s : State) : Result := opWr .uart0Lcrh s.cfg.params.lcrhValue s

/-- Step 25, `S_IMSC`: `WR UART0_IMSC, IMSC_VALUE` (43_uart_init.md R183; kind R122). -/
def execSImsc (s : State) : Result := opWr .uart0Imsc s.cfg.params.imscValue s

/-- Step 26, `S_CR_ON`: `WR UART0_CR, CR_VALUE` (43_uart_init.md R184; kind R122). -/
def execSCrOn (s : State) : Result := opWr .uart0Cr s.cfg.params.crValue s

end Sys2Proof.Machine
end

