-- ==== Sys2Proof/Machine/Dispatch.lean ====
section
/-! DEFINITION. One arm per row of spec/opcode_table.json. -/

namespace Sys2Proof.Machine

/-- The meaning of a row in a state. -/
def exec (i : Instr) (s : State) : Host.Outcome State Fault Refusal :=
  match i with
  | .sCrOff => Sys2Proof.Machine.execSCrOff s
  | .sPudClr => Sys2Proof.Machine.execSPudClr s
  | .sDlyA => Sys2Proof.Machine.execSDlyA s
  | .sPudclkSet => Sys2Proof.Machine.execSPudclkSet s
  | .sDlyB => Sys2Proof.Machine.execSDlyB s
  | .sPudclkClr => Sys2Proof.Machine.execSPudclkClr s
  | .sIcr => Sys2Proof.Machine.execSIcr s
  | .sNeg => Sys2Proof.Machine.execSNeg s
  | .sMbW0 => Sys2Proof.Machine.execSMbW0 s
  | .sMbW1 => Sys2Proof.Machine.execSMbW1 s
  | .sMbW2 => Sys2Proof.Machine.execSMbW2 s
  | .sMbW3 => Sys2Proof.Machine.execSMbW3 s
  | .sMbW4 => Sys2Proof.Machine.execSMbW4 s
  | .sMbW5 => Sys2Proof.Machine.execSMbW5 s
  | .sMbW6 => Sys2Proof.Machine.execSMbW6 s
  | .sMbW7 => Sys2Proof.Machine.execSMbW7 s
  | .sMbW8 => Sys2Proof.Machine.execSMbW8 s
  | .sMbCw => Sys2Proof.Machine.execSMbCw s
  | .sMbWfull => Sys2Proof.Machine.execSMbWfull s
  | .sMbSend => Sys2Proof.Machine.execSMbSend s
  | .sMbWempty => Sys2Proof.Machine.execSMbWempty s
  | .sMbRecv => Sys2Proof.Machine.execSMbRecv s
  | .sIbrd => Sys2Proof.Machine.execSIbrd s
  | .sFbrd => Sys2Proof.Machine.execSFbrd s
  | .sLcrh => Sys2Proof.Machine.execSLcrh s
  | .sImsc => Sys2Proof.Machine.execSImsc s
  | .sCrOn => Sys2Proof.Machine.execSCrOn s
  | .sGrNext => Sys2Proof.Machine.execSGrNext s
  | .sGrWtx => Sys2Proof.Machine.execSGrWtx s
  | .sGrSend => Sys2Proof.Machine.execSGrSend s
  | .sGrLoop => Sys2Proof.Machine.execSGrLoop s
  | .sEcWrx => Sys2Proof.Machine.execSEcWrx s
  | .sEcRecv => Sys2Proof.Machine.execSEcRecv s
  | .sEcWtx1 => Sys2Proof.Machine.execSEcWtx1 s
  | .sEcSend1 => Sys2Proof.Machine.execSEcSend1 s
  | .sEcNl => Sys2Proof.Machine.execSEcNl s
  | .sEcWtx2 => Sys2Proof.Machine.execSEcWtx2 s
  | .sEcSend2 => Sys2Proof.Machine.execSEcSend2 s
  | .sEcLoop => Sys2Proof.Machine.execSEcLoop s
  | .reserved39 => Sys2Proof.Machine.execReserved39 s
  | .reserved40To47 x => Sys2Proof.Machine.execReserved40To47 x s
  | .reserved48To63 x => Sys2Proof.Machine.execReserved48To63 x s
  | .channelWord a => Sys2Proof.Machine.execChannelWord a s
  | .mboxWord0 => Sys2Proof.Machine.execMboxWord0 s
  | .mboxWord1 => Sys2Proof.Machine.execMboxWord1 s
  | .mboxWord2 => Sys2Proof.Machine.execMboxWord2 s
  | .mboxWord3 => Sys2Proof.Machine.execMboxWord3 s
  | .mboxWord4 => Sys2Proof.Machine.execMboxWord4 s
  | .mboxWord5 => Sys2Proof.Machine.execMboxWord5 s
  | .mboxWord6 r => Sys2Proof.Machine.execMboxWord6 r s
  | .mboxWord7 => Sys2Proof.Machine.execMboxWord7 s
  | .mboxWord8 => Sys2Proof.Machine.execMboxWord8 s

end Sys2Proof.Machine
end

