-- ==== Sys2Proof/Machine/Fetch.lean ====
section
/-! DEFINITION. Fetching: the index register `step` is all there is to fetch (30_encoding.md R91), the microprogram being
fixed in the block (20_memory.md R79). Placing a word for the next step (log 13). -/

namespace Sys2Proof.Machine

/-- The row the next step executes. -/
def fetch (s : State) : Instr := decodeStep s.step

/-- The configuration with another requested clock rate; no clause of 00_scope.md R14 reads the rate. -/
def withClockHz (c : Cfg) (r : Word) : Cfg := ⟨c.profile, { c.params with uartClockHz := r }, c.ok⟩

/-- The configuration with another buffer address, where that is well formed. -/
def withBufAddr (c : Cfg) (a : Word) : Cfg :=
  if h : cfgCheck c.profile { c.params with mboxBufAddr := a } = none then ⟨c.profile, _, h⟩ else c

/-- Select the step that makes the transfer of a data-format word (log 9, log 13). -/
def placeDataWord (s : State) : Instr → State
  | .channelWord a => { s with step := 17#6, cfg := withBufAddr s.cfg (a ++ 0#4) }
  | .mboxWord0 => { s with step := 8#6 }
  | .mboxWord1 => { s with step := 9#6 }
  | .mboxWord2 => { s with step := 10#6 }
  | .mboxWord3 => { s with step := 11#6 }
  | .mboxWord4 => { s with step := 12#6 }
  | .mboxWord5 => { s with step := 13#6 }
  | .mboxWord6 r => { s with step := 14#6, cfg := withClockHz s.cfg r }
  | .mboxWord7 => { s with step := 15#6 }
  | .mboxWord8 => { s with step := 16#6 }
  | _ => s

/-- Place an instruction word for the next step (log 13). -/
def placeWord (s : State) (nbits w : Nat) : State :=
  if nbits ≤ 8 then { s with step := BitVec.ofNat 6 w, fault := none }
  else
    match decodeTableWord nbits w with
    | some i => placeDataWord { s with fault := none } i
    | none => s

end Sys2Proof.Machine
end

