-- ==== Sys2Proof/Machine/Step.lean ====
section
/-! DEFINITION. One step of the machine, and placing an instruction where the next step finds it. -/

namespace Sys2Proof.Machine

/-- One step. A faulted sequencer takes none (60_exceptions.md R231): the outcome is its fault. Otherwise the
micro-operation at the index `step` is fetched by table lookup and executed (30_encoding.md R91); `F_STEP` is thereby
found at the fetch, before anything else (60_exceptions.md R243). -/
def step (s : State) : Host.Outcome State Fault Refusal :=
  match s.fault with
  | some f => .fault f
  | none => exec (fetch s) s

/-- `s` with the instruction of `nbits` bits `w` where the next step finds it (log 13): a step index goes into `step`; for
a data-format word the step that makes its transfer is selected. The step can only run if no fault is held. -/
def State.withFetchWord (s : State) (nbits w : Nat) : State := placeWord s nbits w

end Sys2Proof.Machine
end

