-- ==== Sys2Proof/Machine/Views.lean ====
section
/-! DEFINITION. What the spec derives from the state and stores nowhere: the words of the mailbox buffer (10_state.md R47),
its owner (R48), the phase of the bring-up (R45), and what the trace says of each register (43_uart_init.md R188,
45_echo_loop.md R225). -/

namespace Sys2Proof.Machine

/-- `buf[i]` where it is specified (10_state.md R47, R48). -/
def State.bufSpecified (s : State) (i : Nat) : Option Word := s.mem.readWord (bufWordAddr s.cfg.bufAddr i).toNat

/-- `buf[i]`: the word stored, or any word while it is unspecified (10_state.md R48, 93 U12, U13; log 6). -/
def State.buf (s : State) (i : Fin 9) : Word :=
  match s.bufSpecified i.val with
  | some w => w
  | none => Config.unspecifiedWord s.trace i.val

/-- Who may touch the mailbox buffer (10_state.md R48). -/
inductive Owner where
  | sequencer | firmware
deriving DecidableEq, Repr

/-- The firmware owns the buffer from the bus write of step 19 until the read of step 21 matches: the sequencer is then at
step 20 or 21 (10_state.md R48). -/
def State.bufOwner (s : State) : Owner := if s.step = 20#6 ∨ s.step = 21#6 then .firmware else .sequencer

/-- The phases of the bring-up (10_state.md R45). -/
inductive Phase where
  | disabled | configuringPins | configuringInterruptsCleared | configuringClockSet
  | baudConfigured | lineConfigured | enabled
deriving DecidableEq, Repr

/-- The phase the table of 10_state.md R45 gives a step index; the table names none for steps 0, 8 to 21 and 23. -/
def phaseOf (index : StepIx) : Option Phase :=
  let n := index.toNat
  if n = 1 then some .disabled
  else if 2 ≤ n ∧ n ≤ 6 then some .configuringPins
  else if n = 7 then some .configuringInterruptsCleared
  else if n = 22 then some .configuringClockSet
  else if n = 24 then some .baudConfigured
  else if n = 25 ∨ n = 26 then some .lineConfigured
  else if 27 ≤ n ∧ n ≤ 38 then some .enabled
  else none

/-- The words written to an address, in order. -/
def writesAt (a : Word) : List Event → List Word
  | [] => []
  | .busW b v :: es => if b = a then v :: writesAt a es else writesAt a es
  | _ :: es => writesAt a es

/-- The words read from an address, in order. -/
def readsAt (a : Word) : List Event → List Word
  | [] => []
  | .busR b v :: es => if b = a then v :: readsAt a es else readsAt a es
  | _ :: es => readsAt a es

/-- The bus writes of a trace: addresses and words, in order. -/
def busWrites : List Event → List (Word × Word)
  | [] => []
  | .busW a v :: es => (a, v) :: busWrites es
  | _ :: es => busWrites es

/-- The last word written to a register (43_uart_init.md R188). -/
def lastWritten (c : Cfg) (reg : Reg) (trace : List Event) : Option Word := (writesAt (c.addr reg) trace).getLast?

/-- The bytes received: bits 7:0 of the words read from `UART0_DR` (45_echo_loop.md R225). -/
def bytesReceived (c : Cfg) (trace : List Event) : List Byte := (readsAt (c.addr .uart0Dr) trace).map low8

end Sys2Proof.Machine
end

