-- ==== Sys2Proof/Safety.lean ====
section
/-! DEFINITION. The terms claims are stated in: runs, the invariant of the state, and the shapes of traces the spec
prescribes (42_mailbox.md R159, 43_uart_init.md R185, 44_uart_io.md R193 to R197, 45_echo_loop.md R225). -/

namespace Sys2Proof.Machine

/-! ## Runs -/

/-- `n` steps, stopping at the first fault or refusal. -/
def run : Nat → State → Host.Outcome State Fault Refusal
  | 0, s => .next s
  | n + 1, s =>
    match step s with
    | .next t => run n t
    | .fault f => .fault f
    | .refused r => .refused r

/-- `t` comes after `s` in a run, any number of steps later. -/
inductive Reaches (s : State) : State → Prop where
  | here : Reaches s s
  | next {t u : State} : Reaches s t → step t = .next u → Reaches s u

/-- `s` occurs in a run from reset on some well-formed configuration and some scripted environment (70_reset_and_hazards.md
R270); answers that are not scripted are whatever the oracle says. -/
def Reachable (s : State) : Prop := ∃ c sc, Reaches (State.initial c sc) s

/-- Every address the sequencer can touch is mapped (60_exceptions.md R232). -/
def AllMapped (c : Cfg) : Prop :=
  (∀ reg : Reg, c.isMapped (c.addr reg) = true) ∧ ∀ i, i < 9 → c.isMappedWord (bufWordAddr c.bufAddr i) = true

/-! ## The invariant of the state -/

/-- The word of the request in place `i` of the buffer (30_encoding.md R97). -/
def requestWordAt (c : Cfg) (i : Nat) : Word :=
  [Config.byteLength, Config.requestCode, Config.tagSetClockRate, Config.tagBufSize, Config.tagReqSize,
   Config.clockIdUart, c.params.uartClockHz, Config.thirdValueWord, Config.endTag].getD i 0#32

/-- What holds of the state before every step of a run. -/
structure Inv (s : State) : Prop where
  /-- The memory is in canonical form. -/
  memWf : s.mem.wf = true
  /-- Only bytes of the mailbox buffer are specified (10_state.md R49). -/
  memInBuffer : ∀ cell ∈ s.mem, s.cfg.bufAddr.toNat ≤ cell.1 ∧ cell.1 < s.cfg.bufAddr.toNat + Config.mboxBytes
  /-- Outside the exchange and while the firmware owns the buffer, nothing of it is specified (10_state.md R48). -/
  memUnspecified : s.step.toNat ≤ 8 ∨ 20 ≤ s.step.toNat → s.mem = []
  /-- The words of the request stored so far are in the buffer (42_mailbox.md R141, R145 to R153). -/
  memRequest : s.step.toNat ≤ 19 → ∀ i, i < 9 → i + 8 < s.step.toNat → s.bufSpecified i = some (requestWordAt s.cfg i)
  /-- The step index is legal (10_state.md R22). -/
  stepLegal : s.step.toNat ≤ 38
  /-- The string index is within the greeting (10_state.md R26). -/
  siBound : s.si ≤ s.cfg.greetingLen
  /-- The channel-word register holds nothing but the channel word (10_state.md R25). -/
  cwValue : ∀ w, s.cw = .holds w → w = channelWordOf s.cfg.bufAddr
  /-- `cw` is written before a step that reads it (10_state.md R25). -/
  cwWritten : 18 ≤ s.step.toNat → s.step.toNat ≤ 21 → s.cw ≠ .unwritten
  /-- `ch` is written before a step that reads it (45_echo_loop.md R223). -/
  chWritten : s.step.toNat = 28 ∨ s.step.toNat = 29 ∨ (33 ≤ s.step.toNat ∧ s.step.toNat ≤ 37) → s.ch ≠ .unwritten
  /-- Only a bus fault can be held (60_exceptions.md R230). -/
  faultKind : s.fault = none ∨ ∃ a k, s.fault = some (.fBus a k)

/-! ## Polls before accesses -/

/-- The last event is a read of `reg` that shows the bits of `mask` clear (41_delay_and_wait.md R135). -/
def LastPollClear (c : Cfg) (reg : Reg) (mask : Word) (trace : List Event) : Prop :=
  ∃ pre v, trace = pre ++ [.busR (c.addr reg) v] ∧ v &&& mask = 0#32

/-- Every write of register `reg` comes immediately after a read of `poll` that shows `mask` clear. -/
def WritesGated (c : Cfg) (reg poll : Reg) (mask : Word) (trace : List Event) : Prop :=
  ∀ pre v post, trace = pre ++ .busW (c.addr reg) v :: post → LastPollClear c poll mask pre

/-- Every read of register `reg` comes immediately after a read of `poll` that shows `mask` clear. -/
def ReadsGated (c : Cfg) (reg poll : Reg) (mask : Word) (trace : List Event) : Prop :=
  ∀ pre v post, trace = pre ++ .busR (c.addr reg) v :: post → LastPollClear c poll mask pre

/-- Poll before access, for the four registers it is asked of (70_reset_and_hazards.md R266), with what makes it hold at
the next step. -/
structure GateInv (s : State) : Prop where
  txGated : WritesGated s.cfg .uart0Dr .uart0Fr s.cfg.params.frTxff s.trace
  rxGated : ReadsGated s.cfg .uart0Dr .uart0Fr s.cfg.params.frRxfe s.trace
  sendGated : WritesGated s.cfg .mboxWrite .mboxStatus s.cfg.params.mboxFull s.trace
  recvGated : ReadsGated s.cfg .mboxRead .mboxStatus s.cfg.params.mboxEmpty s.trace
  beforeTx : s.step = 29#6 ∨ s.step = 34#6 ∨ s.step = 37#6 →
    LastPollClear s.cfg .uart0Fr s.cfg.params.frTxff s.trace
  beforeRx : s.step = 32#6 → LastPollClear s.cfg .uart0Fr s.cfg.params.frRxfe s.trace
  beforeSend : s.step = 19#6 → LastPollClear s.cfg .mboxStatus s.cfg.params.mboxFull s.trace
  beforeRecv : s.step = 21#6 → LastPollClear s.cfg .mboxStatus s.cfg.params.mboxEmpty s.trace

/-! ## The trace of the initialization -/

/-- A poll that ends: reads that show a bit of `mask` set, then one that shows them clear (41_delay_and_wait.md R132,
44_uart_io.md R193). -/
def PollTrace (c : Cfg) (reg : Reg) (mask : Word) (trace : List Event) : Prop :=
  ∃ (busy : List Word) (v : Word), (∀ w ∈ busy, w &&& mask ≠ 0#32) ∧ v &&& mask = 0#32 ∧
    trace = busy.map (Event.busR (c.addr reg)) ++ [.busR (c.addr reg) v]

/-- The nine stores of the request, in order (42_mailbox.md R159). -/
def requestEvents (c : Cfg) : List Event := (List.range 9).map fun i => .bufW i (requestWordAt c i)

/-- The rounds of the mailbox receive: poll, read, and again while the word read is not the channel word (42_mailbox.md
R159). -/
inductive RecvTrace (c : Cfg) : List Event → Prop where
  | matched {poll : List Event} : PollTrace c .mboxStatus c.params.mboxEmpty poll →
      RecvTrace c (poll ++ [.busR (c.addr .mboxRead) (channelWordOf c.bufAddr)])
  | stale {poll rest : List Event} {r : Word} : PollTrace c .mboxStatus c.params.mboxEmpty poll →
      r ≠ channelWordOf c.bufAddr → RecvTrace c rest →
      RecvTrace c (poll ++ .busR (c.addr .mboxRead) r :: rest)

/-- The trace of `mbox_call` (42_mailbox.md R159). -/
def MboxTrace (c : Cfg) (trace : List Event) : Prop :=
  ∃ poll recv, PollTrace c .mboxStatus c.params.mboxFull poll ∧ RecvTrace c recv ∧
    trace = requestEvents c ++ poll ++ .busW (c.addr .mboxWrite) (channelWordOf c.bufAddr) :: recv

/-- Events 1 to 7 of `uart_init` (43_uart_init.md R185). -/
def initHead (c : Cfg) : List Event :=
  [.busW (c.addr .uart0Cr) 0#32, .busW (c.addr .gppud) 0#32, .delay c.params.settleCount,
   .busW (c.addr .gppudclk0) c.params.pudclkPins, .delay c.params.settleCount, .busW (c.addr .gppudclk0) 0#32,
   .busW (c.addr .uart0Icr) c.params.icrAll]

/-- Events 9 to 13 of `uart_init` (43_uart_init.md R185). -/
def initTail (c : Cfg) : List Event :=
  [.busW (c.addr .uart0Ibrd) c.params.ibrdValue, .busW (c.addr .uart0Fbrd) c.params.fbrdValue,
   .busW (c.addr .uart0Lcrh) c.params.lcrhValue, .busW (c.addr .uart0Imsc) c.params.imscValue,
   .busW (c.addr .uart0Cr) c.params.crValue]

/-- The trace of `uart_init` (43_uart_init.md R185). -/
def InitTrace (c : Cfg) (trace : List Event) : Prop :=
  ∃ m, (if c.profile.requiresClockNegotiation then MboxTrace c m else m = []) ∧
    trace = initHead c ++ m ++ initTail c

/-! ## Where a step goes -/

/-- A poll at index `n`: on to the next index when the word it has read shows the bits clear, else the same index. -/
def afterPoll (n : StepIx) (mask : Word) (t : State) : StepIx :=
  match t.rd with
  | .holds v => if v &&& mask = 0#32 then n + 1#6 else n
  | .unwritten => n

/-- The successor of a step from `s` that raised nothing and ended in `t`: the column `next` of spec/opcode_table.json
(30_encoding.md R102). -/
def nextColumn (s t : State) : StepIx :=
  match s.step.toNat with
  | 7 => if s.cfg.profile.requiresClockNegotiation then 8#6 else 22#6
  | 18 => afterPoll 18#6 s.cfg.params.mboxFull t
  | 20 => afterPoll 20#6 s.cfg.params.mboxEmpty t
  | 21 => if t.rd = s.cw then 22#6 else 20#6
  | 27 => if s.si = s.cfg.greetingLen then 31#6 else 28#6
  | 28 => afterPoll 28#6 s.cfg.params.frTxff t
  | 30 => 27#6
  | 31 => afterPoll 31#6 s.cfg.params.frRxfe t
  | 33 => afterPoll 33#6 s.cfg.params.frTxff t
  | 36 => afterPoll 36#6 s.cfg.params.frTxff t
  | 38 => 31#6
  | n => BitVec.ofNat 6 (n + 1)

/-! ## A scripted environment that always says the same -/

/-- The script answers every read of `a` with `w`, for ever. -/
def AlwaysAnswers (sc : Script) (a w : Word) : Prop := Script.answer sc a = some w ∧ Script.pop sc a = sc

/-! ## The named premises of a claim of liveness -/

/-- Step number `n` of the run from `s` reads `reg`, and the environment answers `v`. -/
def ReadsAt (s : State) (n : Nat) (reg : Reg) (v : Word) : Prop :=
  ∃ t u, run n s = .next t ∧ step t = .next u ∧ u.trace = t.trace ++ [.busR (t.cfg.addr reg) v]

/-- The run from `s` reads `reg` again and again without end. -/
def ReadForEver (s : State) (reg : Reg) : Prop := ∀ m, ∃ n v, m ≤ n ∧ ReadsAt s n reg v

/-- In every infinite sequence of reads of `reg` in the run from `s` some answer is `good`: if the reads have no end, such
an answer comes after every point (70_reset_and_hazards.md R272). -/
def EventuallyAnswers (s : State) (reg : Reg) (good : Word → Prop) : Prop :=
  ReadForEver s reg → ∀ m, ∃ n v, m ≤ n ∧ ReadsAt s n reg v ∧ good v

/-- `EventuallyClear(reg, mask)` (70_reset_and_hazards.md R272, 92 D26): in every infinite sequence of reads of `reg` the
environment answers some word with the bits of `mask` clear. -/
def EventuallyClear (s : State) (reg : Reg) (mask : Word) : Prop := EventuallyAnswers s reg fun v => v &&& mask = 0#32

/-- `EventuallyMatches` (70_reset_and_hazards.md R272, 92 D26): in every infinite sequence of reads of `MBOX_READ` the
environment answers `cw`, which is the channel word wherever it is read (42_mailbox.md R143). -/
def EventuallyMatches (s : State) : Prop := EventuallyAnswers s .mboxRead fun v => v = channelWordOf s.cfg.bufAddr

/-- All the waits of the block end: the premises of a liveness claim together (70_reset_and_hazards.md R272). -/
structure WaitsEnd (s : State) : Prop where
  txReady : EventuallyClear s .uart0Fr s.cfg.params.frTxff
  mailboxNotFull : EventuallyClear s .mboxStatus s.cfg.params.mboxFull
  mailboxNotEmpty : EventuallyClear s .mboxStatus s.cfg.params.mboxEmpty
  matched : EventuallyMatches s

/-! ## The bytes of a whole run -/

/-- Each received byte is answered by itself and a newline (45_echo_loop.md R224). -/
def echoOf (received : List Byte) : List Byte := received.flatMap fun b => [b, Config.newline]

/-- What the block owes for the bytes it has received: the greeting, then the echoes (45_echo_loop.md R225). -/
def owedBytes (c : Cfg) (trace : List Event) : List Byte := c.params.greeting ++ echoOf (bytesReceived c trace)

end Sys2Proof.Machine
end

