-- ==== Sys2Proof/Certificates/Slice0/Obligations.lean ====
section
/-! DEFINITION. The statements about the sequencer. Each docstring names the rule of spec/ it formalises. They hold of every
state, hence of every well-formed configuration and every environment, unless a premise says otherwise; `Reachable` runs
start at reset with any well-formed configuration and any scripted environment, and unscripted answers are the free
oracle's. -/

open Sys2Proof Sys2Proof.Machine

/-! ## Decoding and encoding -/

/-- Words written out from the spec's encodings (30_encoding.md R96, R97, R100, R110) decode to their rows. -/
def Obligations.DecodeWrittenWords : Prop :=
  decode (.step 0b000000#6) = .ok .sCrOff ∧ decode (.step 0b000010#6) = .ok .sDlyA ∧
  decode (.step 0b000111#6) = .ok .sNeg ∧ decode (.step 0b001010#6) = .ok .sMbW2 ∧
  decode (.step 0b010001#6) = .ok .sMbCw ∧ decode (.step 0b010101#6) = .ok .sMbRecv ∧
  decode (.step 0b011010#6) = .ok .sCrOn ∧ decode (.step 0b011101#6) = .ok .sGrSend ∧
  decode (.step 0b100000#6) = .ok .sEcRecv ∧ decode (.step 0b100011#6) = .ok .sEcNl ∧
  decode (.step 0b100110#6) = .ok .sEcLoop ∧ decode (.step 0b100111#6) = .ok .reserved39 ∧
  decode (.step 0b101101#6) = .ok (.reserved40To47 0b101#3) ∧
  decode (.step 0b110110#6) = .ok (.reserved48To63 0b0110#4) ∧
  decode (.channel 0x00001008#32) = .ok (.channelWord 0x0000100#28) ∧
  decode (.channel 0x00001009#32) = .error (.notChannelEight 0x00001009#32) ∧
  decode (.message 2 0x00038002#32) = .ok .mboxWord2 ∧
  decode (.message 3 8#32) = .error (.notRequestWord 3 8#32)

/-- Every row's bits decode to the row, operands and all. -/
def Obligations.DecodeOfEncodeIsTheRow : Prop := ∀ i : Instr, i.wf = true → decode (encode i) = .ok i

/-- Bits in their place have one meaning: what decodes to a row is that row's encoding, for every place and every word. -/
def Obligations.EncodeOfDecodeIsTheCode : Prop := ∀ (c : Code) (i : Instr), decode c = .ok i → encode i = c

/-- The microprogram, all 39 entries in the order of their indices (30_encoding.md R100). -/
def Obligations.MicroprogramTable : Prop :=
  (List.range 39).map (fun n => (decodeStep (BitVec.ofNat 6 n)).entry) =
    [some (.wr .uart0Cr (.lit 0#32)), some (.wr .gppud (.lit 0#32)), some (.dly .settleCount),
     some (.wr .gppudclk0 (.param .pudclkPins)), some (.dly .settleCount), some (.wr .gppudclk0 (.lit 0#32)),
     some (.wr .uart0Icr (.param .icrAll)), some (.bnp 22#6)] ++
    [some (.stw 0 (.lit 36#32)), some (.stw 1 (.lit 0#32)), some (.stw 2 (.lit 0x00038002#32)),
     some (.stw 3 (.lit 12#32)), some (.stw 4 (.lit 8#32)), some (.stw 5 (.lit 2#32)),
     some (.stw 6 (.param .uartClockHz)), some (.stw 7 (.lit 0#32)), some (.stw 8 (.lit 0#32)), some .lcw,
     some (.wtc .mboxStatus (.param .mboxFull)), some (.wrc .mboxWrite),
     some (.wtc .mboxStatus (.param .mboxEmpty)), some (.rdm .mboxRead 20#6)] ++
    [some (.wr .uart0Ibrd (.param .ibrdValue)), some (.wr .uart0Fbrd (.param .fbrdValue)),
     some (.wr .uart0Lcrh (.param .lcrhValue)), some (.wr .uart0Imsc (.param .imscValue)),
     some (.wr .uart0Cr (.param .crValue))] ++
    [some (.ldg 31#6), some (.wtc .uart0Fr (.param .frTxff)), some (.wrb .uart0Dr), some (.jmp 27#6)] ++
    [some (.wtc .uart0Fr (.param .frRxfe)), some (.rdb .uart0Dr), some (.wtc .uart0Fr (.param .frTxff)),
     some (.wrb .uart0Dr), some (.ldc 0x0A#8), some (.wtc .uart0Fr (.param .frTxff)), some (.wrb .uart0Dr),
     some (.jmp 31#6)]

/-- The words the sequencer stores and sends are the data formats of the table: word `k` of the request is row `k` of the
message (30_encoding.md R97), and the channel word of any configuration is the channel-word row with the buffer's address
bits 31:4 (R96). -/
def Obligations.RequestAndChannelWordsAreTheFormats : Prop :=
  ∀ c : Cfg,
    (List.finRange 9).map (fun k => decode (.message k (requestWordAt c k.val))) =
      [.ok .mboxWord0, .ok .mboxWord1, .ok .mboxWord2, .ok .mboxWord3, .ok .mboxWord4, .ok .mboxWord5,
       .ok (.mboxWord6 c.params.uartClockHz), .ok .mboxWord7, .ok .mboxWord8] ∧
    decode (.channel (channelWordOf c.bufAddr)) = .ok (.channelWord (c.bufAddr.extractLsb' 4 28))

/-- The expansions of the composites at their places in the microprogram (30_encoding.md R101, R112): `putc` is steps 28-29,
33-34 and 36-37, `getc` steps 31-32, the greeting loop steps 27 to 30, the exchange steps 8 to 21, the initialization
steps 0 to 26, `main` all of it. -/
def Obligations.CompositesStandInLine : Prop :=
  Composite.putc.expand = entriesOf [.sGrWtx, .sGrSend] ∧ Composite.putc.expand = entriesOf [.sEcWtx1, .sEcSend1] ∧
  Composite.putc.expand = entriesOf [.sEcWtx2, .sEcSend2] ∧ Composite.getc.expand = entriesOf [.sEcWrx, .sEcRecv] ∧
  Composite.putsGreeting.expand = entriesOf [.sGrNext, .sGrWtx, .sGrSend, .sGrLoop] ∧
  Composite.main.expand = (Composite.uartInit.expand ++ Composite.putsGreeting.expand ++ Composite.getc.expand ++
    Composite.putc.expand ++ [.ldc 0x0A#8] ++ Composite.putc.expand ++ [.jmp 31#6]) ∧
  (Composite.uartInit.expand.drop 8).take 14 = Composite.mboxCall.expand ∧
  ∀ op ∈ Composite.main.expand, op.wf = true

/-! ## One step -/

/-- A step runs the row whose index the program counter holds (30_encoding.md R91): if the code of `i` is the index in
`step` and no fault is held, a step is `exec i`. -/
def Obligations.StepRunsTheFetchedRow : Prop :=
  ∀ (i : Instr) (s : State), encode i = .step s.step → s.fault = none → step s = exec i s

/-- The meaning of a step row is its kind applied to its operands (30_encoding.md R91, R92, R100). -/
def Obligations.RowRunsItsEntry : Prop :=
  ∀ (i : Instr) (op : MicroOp) (s : State), i.entry = some op → exec i s = runMicroOp op s

/-- 40_mmio_primitives.md R122, `WR`: the ten rows of the kind write their constant to their register, once, and go on; an
unmapped register is `F_BUS` and nothing else happens. -/
def Obligations.WrWritesItsConstant : Prop :=
  ∀ s : State, ∀ row ∈ ([(.sCrOff, .uart0Cr, 0#32), (.sPudClr, .gppud, 0#32),
      (.sPudclkSet, .gppudclk0, s.cfg.params.pudclkPins), (.sPudclkClr, .gppudclk0, 0#32),
      (.sIcr, .uart0Icr, s.cfg.params.icrAll), (.sIbrd, .uart0Ibrd, s.cfg.params.ibrdValue),
      (.sFbrd, .uart0Fbrd, s.cfg.params.fbrdValue), (.sLcrh, .uart0Lcrh, s.cfg.params.lcrhValue),
      (.sImsc, .uart0Imsc, s.cfg.params.imscValue), (.sCrOn, .uart0Cr, s.cfg.params.crValue)]
      : List (Instr × Reg × Word)),
    (s.cfg.isMapped (s.cfg.addr row.2.1) = true →
      exec row.1 s = .next { s with
        trace := s.trace ++ [.busW (s.cfg.addr row.2.1) row.2.2], step := s.step + 1#6 }) ∧
    (s.cfg.isMapped (s.cfg.addr row.2.1) = false →
      exec row.1 s = .next { s with fault := some (.fBus (s.cfg.addr row.2.1) .write) })

/-- 40_mmio_primitives.md R123, `WRB`: the three rows write the byte latch, zero-extended, to `UART0_DR`; an unwritten latch
is `F_UNINIT(ch)`, before any access, and no state of a run has one there. -/
def Obligations.WrbSendsTheByteLatch : Prop :=
  ∀ s : State, ∀ i ∈ ([.sGrSend, .sEcSend1, .sEcSend2] : List Instr),
    (∀ b, s.ch = .holds b → s.cfg.isMapped (s.cfg.addr .uart0Dr) = true →
      exec i s = .next { s with
        trace := s.trace ++ [.busW (s.cfg.addr .uart0Dr) (0#24 ++ b)], step := s.step + 1#6 }) ∧
    (∀ b, s.ch = .holds b → s.cfg.isMapped (s.cfg.addr .uart0Dr) = false →
      exec i s = .next { s with fault := some (.fBus (s.cfg.addr .uart0Dr) .write) }) ∧
    (s.ch = .unwritten → exec i s = .next { s with fault := some (.fUninit .ch) }) ∧
    (Inv s → encode i = .step s.step → s.ch ≠ .unwritten)

/-- 40_mmio_primitives.md R124, `WRC`: step 19 writes the channel word to `MBOX_WRITE`; an unwritten `cw` is `F_UNINIT(cw)`,
before any access. In a run `cw` is written there and its bits 3:0 are 8. The bytes of the buffer are specified no longer,
as 10_state.md R48 says of this write. -/
def Obligations.WrcSendsTheChannelWord : Prop :=
  ∀ s : State,
    (∀ w, s.cw = .holds w → s.cfg.isMapped (s.cfg.addr .mboxWrite) = true →
      exec .sMbSend s = .next { s with
        mem := s.mem.forget s.cfg.bufAddr.toNat 36,
        trace := s.trace ++ [.busW (s.cfg.addr .mboxWrite) w], step := s.step + 1#6 }) ∧
    (∀ w, s.cw = .holds w → s.cfg.isMapped (s.cfg.addr .mboxWrite) = false →
      exec .sMbSend s = .next { s with fault := some (.fBus (s.cfg.addr .mboxWrite) .write) }) ∧
    (s.cw = .unwritten → exec .sMbSend s = .next { s with fault := some (.fUninit .cw) }) ∧
    (Inv s → s.step = 19#6 → ∃ w, s.cw = .holds w ∧ w.extractLsb' 0 4 = 8#4)

/-- 40_mmio_primitives.md R125, `RDB`: step 32 reads `UART0_DR` once, keeps the word in `rd` and its bits 7:0 in `ch`. -/
def Obligations.RdbKeepsTheLowByte : Prop :=
  ∀ s : State,
    (s.cfg.isMapped (s.cfg.addr .uart0Dr) = true →
      exec .sEcRecv s = .next { s with
        rd := .holds (s.envAnswer (s.cfg.addr .uart0Dr)),
        ch := .holds ((s.envAnswer (s.cfg.addr .uart0Dr)).extractLsb' 0 8),
        trace := s.trace ++ [.busR (s.cfg.addr .uart0Dr) (s.envAnswer (s.cfg.addr .uart0Dr))],
        script := Script.pop s.script (s.cfg.addr .uart0Dr), step := s.step + 1#6 }) ∧
    (s.cfg.isMapped (s.cfg.addr .uart0Dr) = false →
      exec .sEcRecv s = .next { s with fault := some (.fBus (s.cfg.addr .uart0Dr) .read) })

/-- 41_delay_and_wait.md R130, `DLY`: steps 2 and 4 record a delay of `SETTLE_COUNT` iterations, whatever it is, and go on. -/
def Obligations.DlyRecordsTheSettleCount : Prop :=
  ∀ s : State, ∀ i ∈ ([.sDlyA, .sDlyB] : List Instr),
    exec i s = .next { s with trace := s.trace ++ [.delay s.cfg.params.settleCount], step := s.step + 1#6 }

/-- 41_delay_and_wait.md R132, `WTC`: the six polls read their register once; the step index moves on exactly when the word
read has the mask's bit clear, whatever its other bits. -/
def Obligations.WtcAdvancesOnAClearBit : Prop :=
  ∀ s : State, ∀ row ∈ ([(.sMbWfull, .mboxStatus, s.cfg.params.mboxFull),
      (.sMbWempty, .mboxStatus, s.cfg.params.mboxEmpty), (.sGrWtx, .uart0Fr, s.cfg.params.frTxff),
      (.sEcWrx, .uart0Fr, s.cfg.params.frRxfe), (.sEcWtx1, .uart0Fr, s.cfg.params.frTxff),
      (.sEcWtx2, .uart0Fr, s.cfg.params.frTxff)] : List (Instr × Reg × Word)),
    (s.cfg.isMapped (s.cfg.addr row.2.1) = true →
      exec row.1 s = .next { s with
        rd := .holds (s.envAnswer (s.cfg.addr row.2.1)),
        trace := s.trace ++ [.busR (s.cfg.addr row.2.1) (s.envAnswer (s.cfg.addr row.2.1))],
        script := Script.pop s.script (s.cfg.addr row.2.1),
        step := if s.envAnswer (s.cfg.addr row.2.1) &&& row.2.2 = 0#32 then s.step + 1#6 else s.step }) ∧
    (s.cfg.isMapped (s.cfg.addr row.2.1) = false →
      exec row.1 s = .next { s with fault := some (.fBus (s.cfg.addr row.2.1) .read) })

/-- 42_mailbox.md R142, `STW`: the nine rows store their word in its place of the buffer, record it and go on; if any of the
four bytes is unmapped it is `F_BUS` at the word's address and nothing is stored. An index beyond 8 is not well formed. -/
def Obligations.StwStoresARequestWord : Prop :=
  (∀ s : State, ∀ row ∈ ([(.sMbW0, 0, 36#32), (.sMbW1, 1, 0#32), (.sMbW2, 2, 0x00038002#32), (.sMbW3, 3, 12#32),
      (.sMbW4, 4, 8#32), (.sMbW5, 5, 2#32), (.sMbW6, 6, s.cfg.params.uartClockHz), (.sMbW7, 7, 0#32),
      (.sMbW8, 8, 0#32)] : List (Instr × Nat × Word)),
    (s.cfg.isMappedWord (bufWordAddr s.cfg.bufAddr row.2.1) = true →
      exec row.1 s = .next { s with
        mem := s.mem.writeWord (bufWordAddr s.cfg.bufAddr row.2.1).toNat row.2.2,
        trace := s.trace ++ [.bufW row.2.1 row.2.2], step := s.step + 1#6 }) ∧
    (s.cfg.isMappedWord (bufWordAddr s.cfg.bufAddr row.2.1) = false →
      exec row.1 s = .next { s with fault := some (.fBus (bufWordAddr s.cfg.bufAddr row.2.1) .write) })) ∧
  (∀ (n : Nat) (v : Const), 9 ≤ n → (MicroOp.stw n v).wf = false)

/-- 42_mailbox.md R143, `LCW`: step 17 puts `(MBOX_BUF_ADDR & 0xFFFFFFF0) | 8` into `cw`, which on every well-formed
configuration is `MBOX_BUF_ADDR + 8`, and leaves everything else. -/
def Obligations.LcwComputesTheChannelWord : Prop :=
  ∀ s : State,
    exec .sMbCw s = .next { s with
      cw := .holds ((s.cfg.bufAddr &&& 0xFFFFFFF0#32) ||| 0x00000008#32), step := s.step + 1#6 } ∧
    (s.cfg.bufAddr &&& 0xFFFFFFF0#32) ||| 0x00000008#32 = s.cfg.bufAddr + 8#32

/-- 42_mailbox.md R144, `RDM`: step 21 reads `MBOX_READ` once and goes on exactly when all 32 bits equal `cw`, else back to
step 20; an unwritten `cw` is `F_UNINIT(cw)`, before any access, and no state of a run has one there. -/
def Obligations.RdmMatchesTheChannelWord : Prop :=
  ∀ s : State,
    (∀ w, s.cw = .holds w → s.cfg.isMapped (s.cfg.addr .mboxRead) = true →
      exec .sMbRecv s = .next { s with
        rd := .holds (s.envAnswer (s.cfg.addr .mboxRead)),
        trace := s.trace ++ [.busR (s.cfg.addr .mboxRead) (s.envAnswer (s.cfg.addr .mboxRead))],
        script := Script.pop s.script (s.cfg.addr .mboxRead),
        step := if s.envAnswer (s.cfg.addr .mboxRead) = w then s.step + 1#6 else 20#6 }) ∧
    (∀ w, s.cw = .holds w → s.cfg.isMapped (s.cfg.addr .mboxRead) = false →
      exec .sMbRecv s = .next { s with fault := some (.fBus (s.cfg.addr .mboxRead) .read) }) ∧
    (s.cw = .unwritten → exec .sMbRecv s = .next { s with fault := some (.fUninit .cw) }) ∧
    (Inv s → s.step = 21#6 → s.cw ≠ .unwritten)

/-- 43_uart_init.md R171, `BNP`: step 7 goes on when the profile requires clock negotiation, else to step 22, with no access,
no event and no register written. -/
def Obligations.BnpFollowsTheProfile : Prop :=
  ∀ s : State,
    (s.cfg.profile.requiresClockNegotiation = true → exec .sNeg s = .next { s with step := s.step + 1#6 }) ∧
    (s.cfg.profile.requiresClockNegotiation = false → exec .sNeg s = .next { s with step := 22#6 })

/-- 44_uart_io.md R190, `LDC`: step 35 loads the newline byte. -/
def Obligations.LdcLoadsTheNewline : Prop :=
  ∀ s : State, exec .sEcNl s = .next { s with ch := .holds 0x0A#8, step := s.step + 1#6 }

/-- 44_uart_io.md R191, `LDG`: step 27 leaves for step 31 when the greeting is exhausted, else loads byte `si`, numbered
from 0, and counts it; `si` never exceeds the length. -/
def Obligations.LdgTakesTheNextGreetingByte : Prop :=
  ∀ s : State,
    (s.si = s.cfg.params.greeting.length → exec .sGrNext s = .next { s with step := 31#6 }) ∧
    (∀ b, s.cfg.params.greeting[s.si]? = some b →
      exec .sGrNext s = .next { s with ch := .holds b, si := s.si + 1, step := s.step + 1#6 }) ∧
    (∀ t, s.si ≤ s.cfg.params.greeting.length → exec .sGrNext s = .next t → t.si ≤ t.cfg.params.greeting.length)

/-- The model's choice for a string index beyond the greeting, which no run has and of which the spec says nothing (log 8):
`LDG` loads a free byte and otherwise does what it does. -/
def Obligations.LdgBeyondTheGreetingLoadsAFreeByte : Prop :=
  ∀ s : State, s.cfg.params.greeting.length < s.si →
    exec .sGrNext s = .next { s with
      ch := .holds (Config.pastGreeting s.si), si := s.si + 1, step := s.step + 1#6 }

/-- 44_uart_io.md R192, `JMP`: step 30 goes to step 27 and step 38 to step 31, and nothing else changes. -/
def Obligations.JmpGoesToItsTarget : Prop :=
  ∀ s : State, exec .sGrLoop s = .next { s with step := 27#6 } ∧ exec .sEcLoop s = .next { s with step := 31#6 }

/-- The reserved rows take the fault the spec gives them, `F_STEP` with their index (30_encoding.md R110, 60_exceptions.md
R230): nothing else changes. -/
def Obligations.ReservedRowsRaiseStepFault : Prop :=
  ∀ s : State,
    exec .reserved39 s = .next { s with fault := some (.fStep 39#6) } ∧
    (∀ x, exec (.reserved40To47 x) s = .next { s with fault := some (.fStep (0b101#3 ++ x)) }) ∧
    (∀ x, exec (.reserved48To63 x) s = .next { s with fault := some (.fStep (0b11#2 ++ x)) })

/-- 60_exceptions.md R235: a step from an index 39 to 63 finds no entry and raises `F_STEP` with that index; nothing else
changes. -/
def Obligations.ReservedIndexRaisesStepFault : Prop :=
  ∀ s : State, 39 ≤ s.step.toNat → s.fault = none →
    (decodeStep s.step).entry = none ∧ step s = .next { s with fault := some (.fStep s.step) }

/-- The model's choice for the data-format rows (log 9; the formats are 30_encoding.md R96, R97): a message word is stored in
its place as `STW` stores, the channel word is loaded as `LCW` loads. -/
def Obligations.DataWordsAreTransferred : Prop :=
  ∀ s : State,
    (∀ r : Word, ∀ row ∈ ([(.mboxWord0, 0, 36#32), (.mboxWord1, 1, 0#32), (.mboxWord2, 2, 0x00038002#32),
        (.mboxWord3, 3, 12#32), (.mboxWord4, 4, 8#32), (.mboxWord5, 5, 2#32), (.mboxWord6 r, 6, r),
        (.mboxWord7, 7, 0#32), (.mboxWord8, 8, 0#32)] : List (Instr × Nat × Word)),
      (s.cfg.isMappedWord (bufWordAddr s.cfg.bufAddr row.2.1) = true →
        exec row.1 s = .next { s with
          mem := s.mem.writeWord (bufWordAddr s.cfg.bufAddr row.2.1).toNat row.2.2,
          trace := s.trace ++ [.bufW row.2.1 row.2.2], step := s.step + 1#6 }) ∧
      (s.cfg.isMappedWord (bufWordAddr s.cfg.bufAddr row.2.1) = false →
        exec row.1 s = .next { s with fault := some (.fBus (bufWordAddr s.cfg.bufAddr row.2.1) .write) })) ∧
    (∀ a : BitVec 28, exec (.channelWord a) s = .next { s with cw := .holds (a ++ 8#4), step := s.step + 1#6 })

/-! ## Frames and whole-machine rules -/

/-- 20_memory.md R62: a buffer store that is not refused puts byte `j` of the word, the least significant first, at
`MBOX_BUF_ADDR + 4*i + j`, and every other byte of memory reads as before. -/
def Obligations.BufferStoreIsLittleEndian : Prop :=
  ∀ (s t : State) (i : Instr) (index : Nat) (value : Const), i.entry = some (.stw index value) →
    s.cfg.isMappedWord (bufWordAddr s.cfg.bufAddr index) = true → exec i s = .next t →
    (bufWordAddr s.cfg.bufAddr index).toNat = s.cfg.bufAddr.toNat + 4 * index ∧
    (∀ j, j < 4 → t.mem.read ((bufWordAddr s.cfg.bufAddr index).toNat + j) =
      some ((value.eval s.cfg.params).extractLsb' (8 * j) 8)) ∧
    (∀ a, a < (bufWordAddr s.cfg.bufAddr index).toNat ∨ (bufWordAddr s.cfg.bufAddr index).toNat + 4 ≤ a →
      t.mem.read a = s.mem.read a)

/-- Every row that stores nothing leaves every byte of memory as it was; step 19 leaves every byte outside the 36 of the
buffer, which become unspecified (10_state.md R48, R49). -/
def Obligations.OtherRowsLeaveMemory : Prop :=
  (∀ (i : Instr) (op : MicroOp) (s t : State), i.entry = some op → (∀ n v, op ≠ .stw n v) → i ≠ .sMbSend →
    exec i s = .next t → ∀ a, t.mem.read a = s.mem.read a) ∧
  (∀ s t : State, exec .sMbSend s = .next t →
    (∀ a, a < s.cfg.bufAddr.toNat ∨ s.cfg.bufAddr.toNat + 36 ≤ a → t.mem.read a = s.mem.read a) ∧
    (t.fault = none → ∀ a, s.cfg.bufAddr.toNat ≤ a → a < s.cfg.bufAddr.toNat + 36 → t.mem.read a = none))

/-- Who writes the working registers, over all 39 step rows: `rd` only `WTC`, `RDB`, `RDM` (10_state.md R23); `ch` only
`RDB`, `LDG`, `LDC` (R24); `cw` only `LCW` (R25); `si` only `LDG`, by one (R26). -/
def Obligations.WorkingRegistersHaveTheirWriters : Prop :=
  ∀ (i : Instr) (op : MicroOp) (s t : State), i.entry = some op → exec i s = .next t →
    (t.rd ≠ s.rd → (∃ r m, op = .wtc r m) ∨ (∃ r, op = .rdb r) ∨ ∃ r u, op = .rdm r u) ∧
    (t.ch ≠ s.ch → (∃ r, op = .rdb r) ∨ (∃ u, op = .ldg u) ∨ ∃ b, op = .ldc b) ∧
    (t.cw ≠ s.cw → op = .lcw) ∧
    (t.si ≠ s.si → (∃ u, op = .ldg u) ∧ t.si = s.si + 1)

/-- 20_memory.md R68, exactly once: a step that raises nothing performs exactly one bus write (`WR`, `WRB`, `WRC`), one bus
read (`WTC`, `RDB`, `RDM`), one buffer store (`STW`) or one delay (`DLY`), recorded after all earlier ones, and the other
kinds perform none. -/
def Obligations.EachStepAccessesOnce : Prop :=
  ∀ (i : Instr) (op : MicroOp) (s t : State), i.entry = some op → exec i s = .next t → s.fault = none →
    t.fault = none →
    match op with
    | .wr r _ => ∃ v, t.trace = s.trace ++ [.busW (s.cfg.addr r) v]
    | .wrb r => ∃ v, t.trace = s.trace ++ [.busW (s.cfg.addr r) v]
    | .wrc r => ∃ v, t.trace = s.trace ++ [.busW (s.cfg.addr r) v]
    | .rdb r => ∃ v, t.trace = s.trace ++ [.busR (s.cfg.addr r) v]
    | .wtc r _ => ∃ v, t.trace = s.trace ++ [.busR (s.cfg.addr r) v]
    | .rdm r _ => ∃ v, t.trace = s.trace ++ [.busR (s.cfg.addr r) v]
    | .stw n _ => ∃ v, t.trace = s.trace ++ [.bufW n v]
    | .dly _ => ∃ n, t.trace = s.trace ++ [.delay n]
    | .lcw => t.trace = s.trace
    | .bnp _ => t.trace = s.trace
    | .ldc _ => t.trace = s.trace
    | .ldg _ => t.trace = s.trace
    | .jmp _ => t.trace = s.trace

/-- 30_encoding.md R102: where every step goes that raises nothing, for all 39 indices. -/
def Obligations.ControlTransfersAreTheTable : Prop :=
  ∀ s t : State, s.step.toNat ≤ 38 → step s = .next t → t.fault = none → t.step = nextColumn s t

/-- No row changes the configuration, and the trace only grows (00_scope.md R8, 10_state.md R27, 20_memory.md R79). -/
def Obligations.ConfigurationStaysAndTraceGrows : Prop :=
  ∀ (i : Instr) (s t : State), exec i s = .next t → t.cfg = s.cfg ∧ s.trace <+: t.trace

/-- 60_exceptions.md R231: when a step raises a fault, that is all it does; from then on no step is taken, so the fault is
never cleared. -/
def Obligations.FaultsAreFinal : Prop :=
  (∀ s t : State, step s = .next t → t.fault ≠ none → t = { s with fault := t.fault }) ∧
  (∀ (s : State) (f : Fault), s.fault = some f → step s = .fault f ∧ ∀ t, Reaches s t → t = s)

/-- A configuration with the thirteen registers and the 36 buffer bytes mapped never meets `F_BUS` (60_exceptions.md R232). -/
def Obligations.MappedConfigurationHasNoBusFault : Prop :=
  ∀ s t : State, AllMapped s.cfg → step s = .next t → ∀ a k, t.fault ≠ some (.fBus a k)

/-- What the environment decides (10_state.md R44): whether a step is taken and whether it faults does not depend on the
answers; nor do `cw`, `si`, the memory, or `ch`, but for the byte received at step 32. -/
def Obligations.AnswersOnlyChooseTheNextStep : Prop :=
  ∀ (s t : State) (sc : Script), step s = .next t →
    ∃ u, step { s with script := sc } = .next u ∧ u.fault = t.fault ∧ u.cfg = t.cfg ∧ u.cw = t.cw ∧ u.si = t.si ∧
      u.mem = t.mem ∧ u.trace.length = t.trace.length ∧ (s.step ≠ 32#6 → u.ch = t.ch) ∧
      busWrites u.trace = busWrites t.trace

/-! ## Configuration and reset -/

/-- 70_reset_and_hazards.md R260, 10_state.md R50, the reset state: `step = 0`, `si = 0`, an empty trace, no fault; `rd`,
`ch`, `cw` unwritten and no byte of the buffer specified; of the machine and of every configuration and environment. -/
def Obligations.ResetStateIsTheSpecs : Prop :=
  ∀ s : State, (s = Sys2Proof.core.reset ∨ ∃ c sc, s = State.initial c sc) →
    s.step = 0#6 ∧ s.si = 0 ∧ s.trace = [] ∧ s.fault = none ∧ s.rd = .unwritten ∧ s.ch = .unwritten ∧
    s.cw = .unwritten ∧ (∀ i, s.bufSpecified i = none) ∧ s.bufOwner = .sequencer

/-- 00_scope.md R14: a machine can be started exactly when the configuration meets clauses (a) to (g). -/
def Obligations.OnlyWellFormedConfigurationsRun : Prop :=
  ∀ (profiles : List BoardProfile) (p : Params) (sc : Script),
    (∃ s, boot profiles p sc = .next s) ↔
      ∃ b, profiles = [b] ∧
        p.mboxBufAddr.extractLsb' 0 4 = 0#4 ∧
        (b.baseAddress.toNat % 4 = 0 ∧ (∀ r : Reg, (p.off r).toNat % 4 = 0) ∧
          ∀ r q : Reg, p.off r = p.off q → r = q) ∧
        ((∀ r : Reg, b.baseAddress.toNat + (p.off r).toNat < 2 ^ 32) ∧ p.mboxBufAddr.toNat + 36 ≤ 2 ^ 32) ∧
        (popCount p.frTxff = 1 ∧ popCount p.frRxfe = 1 ∧ popCount p.mboxFull = 1 ∧ popCount p.mboxEmpty = 1 ∧
          p.frTxff ≠ p.frRxfe ∧ p.mboxFull ≠ p.mboxEmpty) ∧
        (popCount p.pudclkPins = 2 ∧ popCount p.crValue = 3) ∧
        (∀ (r : Reg) (x y : Nat), x < 36 → y < 4 →
          p.mboxBufAddr.toNat + x ≠ b.baseAddress.toNat + (p.off r).toNat + y)

/-- 60_exceptions.md R233: a misaligned buffer is refused when the configuration is built, whatever else the profile says,
with the address; no step of any run refuses. -/
def Obligations.MisalignedBufferIsRefused : Prop :=
  (∀ (b : BoardProfile) (p : Params) (sc : Script), p.mboxBufAddr.extractLsb' 0 4 ≠ 0#4 →
    boot [b] p sc = .refused (.fAlign p.mboxBufAddr)) ∧
  ∀ (s : State) (r : Refusal), step s ≠ .refused r

/-- The order of the checks at configuration (60_exceptions.md R243): one profile, alignment, then the other clauses. The
order among those is the letters', the model's reading of the rule (log 2). -/
def Obligations.ConfigurationChecksHaveTheirOrder : Prop :=
  ∀ (profiles : List BoardProfile) (p : Params) (sc : Script),
    (profiles.length ≠ 1 → boot profiles p sc = .refused (.fConfig .a)) ∧
    ∀ b, profiles = [b] → alignedBuffer p = true →
      (clauseC b p = false → boot profiles p sc = .refused (.fConfig .c)) ∧
      (clauseC b p = true → clauseD b p = false → boot profiles p sc = .refused (.fConfig .d)) ∧
      (clauseC b p = true → clauseD b p = true → clauseE p = false → boot profiles p sc = .refused (.fConfig .e)) ∧
      (clauseC b p = true → clauseD b p = true → clauseE p = true → clauseF p = false →
        boot profiles p sc = .refused (.fConfig .f)) ∧
      (clauseC b p = true → clauseD b p = true → clauseE p = true → clauseF p = true → clauseG b p = false →
        boot profiles p sc = .refused (.fConfig .g))

/-- 30_encoding.md R96: the channel word's bits 3:0 are 8 and its bits 31:4 are those of the buffer's address, for every
address. -/
def Obligations.ChannelWordFields : Prop :=
  ∀ a : Word, (channelWordOf a).extractLsb' 0 4 = 8#4 ∧ (channelWordOf a).extractLsb' 4 28 = a.extractLsb' 4 28 ∧
    channelWordOf a = a.extractLsb' 4 28 ++ 8#4

/-- The table of 10_state.md R45: the phase of each step index it names. -/
def Obligations.PhasesFollowTheTable : Prop :=
  (List.range 39).map (fun n => phaseOf (BitVec.ofNat 6 n)) =
    [none, some .disabled] ++ List.replicate 5 (some .configuringPins) ++ [some .configuringInterruptsCleared] ++
    List.replicate 14 none ++ [some .configuringClockSet, none, some .baudConfigured, some .lineConfigured,
      some .lineConfigured] ++ List.replicate 12 (some .enabled)

/-! ## Invariants -/

/-- The invariant holds at reset, on every configuration and in every environment. -/
def Obligations.ResetMeetsTheInvariant : Prop :=
  Inv Sys2Proof.core.reset ∧ ∀ (c : Cfg) (sc : Script), Inv (State.initial c sc)

/-- Every step keeps the invariant: canonical memory inside the buffer, specified only while the sequencer writes it and
then with the request's words; legal step and string indices; `cw` and `ch` written before they are read; no fault but
`F_BUS`. -/
def Obligations.EveryStepKeepsTheInvariant : Prop := ∀ s t : State, Inv s → step s = .next t → Inv t

/-- The polls-before-accesses invariant holds at reset. -/
def Obligations.ResetMeetsTheGates : Prop := ∀ (c : Cfg) (sc : Script), GateInv (State.initial c sc)

/-- Every step keeps it: each write of `UART0_DR` and `MBOX_WRITE` and each read of `UART0_DR` and `MBOX_READ` comes
immediately after a poll that showed its flag clear (70_reset_and_hazards.md R266). -/
def Obligations.EveryStepKeepsTheGates : Prop := ∀ s t : State, GateInv s → step s = .next t → GateInv t

/-- 45_echo_loop.md R223: in a run `ch` is written before it is read, so `F_UNINIT(ch)` never occurs. -/
def Obligations.ByteLatchIsWrittenBeforeRead : Prop :=
  ∀ s : State, Reachable s →
    (s.step = 29#6 ∨ s.step = 34#6 ∨ s.step = 37#6 → s.ch ≠ .unwritten) ∧ s.fault ≠ some (.fUninit .ch)

/-- 44_uart_io.md R196: every write of `UART0_DR` in any trace of a run is immediately preceded by a read of `UART0_FR` that
shows the transmit FIFO not full. -/
def Obligations.TransmitIsGated : Prop :=
  ∀ s : State, Reachable s → WritesGated s.cfg .uart0Dr .uart0Fr s.cfg.params.frTxff s.trace

/-- 44_uart_io.md R197: every read of `UART0_DR` in any trace of a run is immediately preceded by a read of `UART0_FR` that
shows the receive FIFO not empty. -/
def Obligations.ReceiveIsGated : Prop :=
  ∀ s : State, Reachable s → ReadsGated s.cfg .uart0Dr .uart0Fr s.cfg.params.frRxfe s.trace

/-! ## The initialization -/

/-- 43_uart_init.md R185: from any state at step 0, the first arrival at step 27 (the string index still what it was) has
appended exactly the trace of `uart_init`, whatever the environment answered. -/
def Obligations.InitializationTrace : Prop :=
  ∀ s t : State, s.step = 0#6 → Reaches s t → t.step = 27#6 → t.si = s.si →
    ∃ m, InitTrace s.cfg m ∧ t.trace = s.trace ++ m

/-- 42_mailbox.md R159: an exchange that ends has exactly the trace of `mbox_call`, leaves the channel word in `cw` and in
`rd`, and the buffer unspecified. -/
def Obligations.MailboxExchangeTrace : Prop :=
  ∀ s t : State, s.step = 8#6 → Reaches s t → t.step = 22#6 →
    (∃ m, MboxTrace s.cfg m ∧ t.trace = s.trace ++ m) ∧ t.cw = .holds (channelWordOf s.cfg.bufAddr) ∧
    t.rd = .holds (channelWordOf s.cfg.bufAddr) ∧ ∀ i, i < 9 → t.bufSpecified i = none

/-- 43_uart_init.md R188, idempotence: two initializations on the same configuration, from any two states at step 0 and in
any environments, make the same bus writes in the same order, so each register's last value is the same. -/
def Obligations.InitializationIsRepeatable : Prop :=
  ∀ s t s' t' : State, s.cfg = s'.cfg → s.step = 0#6 → s'.step = 0#6 → Reaches s t → Reaches s' t' →
    t.step = 27#6 → t'.step = 27#6 → t.si = s.si → t'.si = s'.si →
    ∃ m m', t.trace = s.trace ++ m ∧ t'.trace = s'.trace ++ m' ∧ busWrites m = busWrites m' ∧
      ∀ reg ∈ ([.uart0Cr, .uart0Ibrd, .uart0Fbrd, .uart0Lcrh, .uart0Imsc, .gppud, .gppudclk0] : List Reg),
        lastWritten s.cfg reg t.trace = lastWritten s.cfg reg m ∧
        lastWritten s.cfg reg t'.trace = lastWritten s.cfg reg m

/-- 43_uart_init.md R186: in a run, any event other than the write of 0 to `UART0_CR` has that write somewhere before it. -/
def Obligations.DisableBeforeReconfigure : Prop :=
  ∀ (s : State) (pre post : List Event) (e : Event), Reachable s → s.trace = pre ++ e :: post →
    e ≠ .busW (s.cfg.addr .uart0Cr) 0#32 → .busW (s.cfg.addr .uart0Cr) 0#32 ∈ pre

/-- 43_uart_init.md R187: in a run the first six events are, as far as they have happened, the disable and then the
pull-up/down handshake: `GPPUD`, a delay, `GPPUDCLK0` set, a delay, `GPPUDCLK0` cleared, nothing between; and neither register
is written again. -/
def Obligations.HandshakeOrder : Prop :=
  ∀ s : State, Reachable s →
    (s.trace.take 6 <+:
      [.busW (s.cfg.addr .uart0Cr) 0#32, .busW (s.cfg.addr .gppud) 0#32, .delay s.cfg.params.settleCount,
       .busW (s.cfg.addr .gppudclk0) s.cfg.params.pudclkPins, .delay s.cfg.params.settleCount,
       .busW (s.cfg.addr .gppudclk0) 0#32]) ∧
    writesAt (s.cfg.addr .gppud) (s.trace.drop 6) = [] ∧ writesAt (s.cfg.addr .gppudclk0) (s.trace.drop 6) = []

/-- 43_uart_init.md R170: without clock negotiation the initialization takes 13 steps, cannot hang and makes ten bus writes
and two delays, whatever the environment says; nothing but the trace and the step index changes. -/
def Obligations.InitializationWithoutNegotiation : Prop :=
  ∀ s : State, s.cfg.profile.requiresClockNegotiation = false → AllMapped s.cfg → s.step = 0#6 → s.fault = none →
    run 13 s = .next { s with step := 27#6, trace := s.trace ++ (initHead s.cfg ++ initTail s.cfg) } ∧
    (busWrites (initHead s.cfg ++ initTail s.cfg)).length = 10

/-- 42_mailbox.md R163: without clock negotiation no state of a run is inside the exchange and no event concerns the
mailbox or its buffer. -/
def Obligations.NoMailboxWithoutNegotiation : Prop :=
  ∀ s : State, Reachable s → s.cfg.profile.requiresClockNegotiation = false →
    (s.step.toNat < 8 ∨ 21 < s.step.toNat) ∧
    (∀ n v, Event.bufW n v ∉ s.trace) ∧
    ∀ reg ∈ ([.mboxRead, .mboxStatus, .mboxWrite] : List Reg), ∀ v,
      Event.busR (s.cfg.addr reg) v ∉ s.trace ∧ Event.busW (s.cfg.addr reg) v ∉ s.trace

/-- The request is complete in the buffer before the channel word is sent (20_memory.md R77, 70_reset_and_hazards.md R267 a),
and the channel word is sent at most once in a run (42_mailbox.md R156). -/
def Obligations.RequestCompleteAndSentOnce : Prop :=
  ∀ s : State, Reachable s →
    (s.step = 19#6 → ∀ i, i < 9 → s.bufSpecified i = some (requestWordAt s.cfg i)) ∧
    (writesAt (s.cfg.addr .mboxWrite) s.trace).length ≤ 1

/-- While the firmware owns the buffer no byte of it is specified, and the sequencer does not touch it (10_state.md R48,
70_reset_and_hazards.md R267 b). -/
def Obligations.FirmwareOwnsAnUntouchedBuffer : Prop :=
  (∀ s : State, Reachable s → s.bufOwner = .firmware → ∀ i, s.bufSpecified i = none) ∧
  (∀ s t : State, s.bufOwner = .firmware → step s = .next t →
    t.mem = s.mem ∧ ∀ n v, t.trace ≠ s.trace ++ [.bufW n v])

/-! ## Waiting, echoing, going on for ever -/

/-- 41_delay_and_wait.md R134, no timeout: a poll whose bit the environment never clears repeats for ever; after any number
of steps the state is the same but for `rd` and one more read in the trace per step, and no fault is held. -/
def Obligations.PollHasNoTimeout : Prop :=
  ∀ (n : Nat) (s : State) (reg : Reg) (mask : Const) (w : Word),
    (decodeStep s.step).entry = some (.wtc reg mask) → s.fault = none →
    s.cfg.isMapped (s.cfg.addr reg) = true → AlwaysAnswers s.script (s.cfg.addr reg) w →
    w &&& mask.eval s.cfg.params ≠ 0#32 →
    run (n + 1) s = .next { s with
      rd := .holds w, trace := s.trace ++ List.replicate (n + 1) (.busR (s.cfg.addr reg) w) }

/-- One turn of the echo loop with both flags clear (45_echo_loop.md R224): eight steps receive a byte and send it and a
newline, each after a poll. -/
def Obligations.EchoTurn : Prop :=
  ∀ (s : State) (w v : Word), s.step = 31#6 → s.fault = none →
    s.cfg.isMapped (s.cfg.addr .uart0Fr) = true → s.cfg.isMapped (s.cfg.addr .uart0Dr) = true →
    AlwaysAnswers s.script (s.cfg.addr .uart0Fr) w → Script.answer s.script (s.cfg.addr .uart0Dr) = some v →
    w &&& s.cfg.params.frTxff = 0#32 → w &&& s.cfg.params.frRxfe = 0#32 →
    run 8 s = .next { s with
      rd := .holds w, ch := .holds 0x0A#8, script := Script.pop s.script (s.cfg.addr .uart0Dr),
      trace := s.trace ++ [.busR (s.cfg.addr .uart0Fr) w, .busR (s.cfg.addr .uart0Dr) v,
        .busR (s.cfg.addr .uart0Fr) w, .busW (s.cfg.addr .uart0Dr) (0#24 ++ v.extractLsb' 0 8),
        .busR (s.cfg.addr .uart0Fr) w, .busW (s.cfg.addr .uart0Dr) 0x0000000A#32] }

/-- 45_echo_loop.md R225, the output of a whole run: the words written to `UART0_DR` are, zero-extended and as far as they
have been written, the greeting and then each received byte followed by a newline; at steps 31 and 32 nothing is owed, so a byte
is read only after everything for the bytes before it has been sent; and a state that holds no fault has a next one. -/
def Obligations.OutputIsGreetingThenEchoes : Prop :=
  ∀ s : State, Reachable s →
    (writesAt (s.cfg.addr .uart0Dr) s.trace <+: (owedBytes s.cfg s.trace).map (fun b => 0#24 ++ b)) ∧
    (s.step = 31#6 ∨ s.step = 32#6 →
      writesAt (s.cfg.addr .uart0Dr) s.trace = (owedBytes s.cfg s.trace).map (fun b => 0#24 ++ b)) ∧
    (s.fault = none → ∃ t, step s = .next t)

/-- A run never ends of itself: every state of a run that holds no fault takes a step, and on a fully mapped configuration
that step raises none (45_echo_loop.md R225, 70_reset_and_hazards.md R270). Under the named premises of
70_reset_and_hazards.md R272 it goes on to step 31, the wait for a byte, and everything owed, the greeting first, has then
been sent. -/
def Obligations.RunsGoOnForEver : Prop :=
  ∀ s : State, Reachable s → s.fault = none →
    (∃ t, step s = .next t ∧ (AllMapped s.cfg → t.fault = none)) ∧
    (AllMapped s.cfg → WaitsEnd s → ∃ n t, run n s = .next t ∧ t.step = 31#6 ∧ t.fault = none ∧
      writesAt (s.cfg.addr .uart0Dr) t.trace = (owedBytes s.cfg t.trace).map (fun b => 0#24 ++ b))
end

