-- ==== Sys2Proof/Laws/Memory.lean ====
section
/-! SUPPORT. The laws of the memory: every operation keeps the canonical form; a read after a store gives the byte stored and
leaves every other byte alone; forgotten bytes are unspecified. -/

namespace Sys2Proof.Machine

theorem Memory.wfFrom_mono {lo lo' : Nat} (h : lo' ≤ lo) : ∀ {m : Memory}, m.wfFrom lo = true → m.wfFrom lo' = true
  | [], _ => rfl
  | (a, b) :: m, hm => by
    simp only [Memory.wfFrom, Bool.and_eq_true, decide_eq_true_eq] at hm ⊢
    exact ⟨by omega, hm.2⟩

theorem Memory.wfFrom_write {lo a : Nat} (b : Byte) (ha : lo ≤ a) :
    ∀ {m : Memory}, m.wfFrom lo = true → (m.write a b).wfFrom lo = true
  | [], _ => by simp [Memory.write, Memory.wfFrom, ha]
  | (k, v) :: m, hm => by
    simp only [Memory.wfFrom, Bool.and_eq_true, decide_eq_true_eq] at hm
    unfold Memory.write
    split
    · simp only [Memory.wfFrom, Bool.and_eq_true, decide_eq_true_eq]
      exact ⟨ha, by omega, hm.2⟩
    · split
      · subst_vars
        simp only [Memory.wfFrom, Bool.and_eq_true, decide_eq_true_eq]
        exact ⟨ha, hm.2⟩
      · simp only [Memory.wfFrom, Bool.and_eq_true, decide_eq_true_eq]
        exact ⟨hm.1, Memory.wfFrom_write b (by omega) hm.2⟩

/-- A store keeps the canonical form. -/
theorem Memory.wf_write {m : Memory} (h : m.wf = true) (a : Nat) (b : Byte) : (m.write a b).wf = true :=
  Memory.wfFrom_write b (Nat.zero_le a) h

theorem Memory.wf_writeBytes (bs : List Byte) : ∀ {m : Memory} (a : Nat), m.wf = true → (m.writeBytes a bs).wf = true := by
  induction bs with
  | nil => intro m a h; exact h
  | cons b bs ih => intro m a h; exact ih (a + 1) (Memory.wf_write h a b)

/-- A word store keeps the canonical form. -/
theorem Memory.wf_writeWord {m : Memory} (h : m.wf = true) (a : Nat) (v : Word) : (m.writeWord a v).wf = true :=
  Memory.wf_writeBytes _ a h

theorem Memory.wfFrom_filter (p : Host.Cell → Bool) :
    ∀ {lo : Nat} {m : Memory}, m.wfFrom lo = true → Memory.wfFrom lo (m.filter p) = true
  | _, [], _ => rfl
  | lo, (a, b) :: m, hm => by
    simp only [Memory.wfFrom, Bool.and_eq_true, decide_eq_true_eq] at hm
    have hrest := Memory.wfFrom_filter p hm.2
    by_cases hp : p (a, b) = true
    · rw [List.filter_cons_of_pos hp]
      simp only [Memory.wfFrom, Bool.and_eq_true, decide_eq_true_eq]
      exact ⟨hm.1, hrest⟩
    · rw [List.filter_cons_of_neg hp]
      exact Memory.wfFrom_mono (by omega) hrest

/-- Forgetting bytes keeps the canonical form. -/
theorem Memory.wf_forget {m : Memory} (h : m.wf = true) (lo n : Nat) : (m.forget lo n).wf = true :=
  Memory.wfFrom_filter _ h

/-- A read after a store: the byte stored at its address, every other byte as before. -/
theorem Memory.read_write (m : Memory) (a : Nat) (b : Byte) (x : Nat) :
    (m.write a b).read x = if x = a then some b else m.read x := by
  induction m with
  | nil => simp [Memory.write, Memory.read, eq_comm]
  | cons c m ih =>
    obtain ⟨k, v⟩ := c
    unfold Memory.write
    split
    · simp [Memory.read, eq_comm]
    · split
      · subst_vars
        by_cases h : x = k <;> simp [Memory.read, h, eq_comm]
      · by_cases h : k = x
        · subst h; simp [Memory.read]; intro; omega
        · simp [Memory.read, h, ih]

/-- A read after a word store (20_memory.md R62): the four bytes, least significant first, every other byte as before. -/
theorem Memory.read_writeWord (m : Memory) (a : Nat) (v : Word) (x : Nat) :
    (m.writeWord a v).read x =
      if x = a then some (v.extractLsb' 0 8)
      else if x = a + 1 then some (v.extractLsb' 8 8)
      else if x = a + 2 then some (v.extractLsb' 16 8)
      else if x = a + 3 then some (v.extractLsb' 24 8)
      else m.read x := by
  simp only [Memory.writeWord, wordBytes, Memory.writeBytes, Memory.read_write]
  split_ifs <;> first | rfl | omega

theorem wordOfBytes_wordBytes (v : Word) :
    wordOfBytes (v.extractLsb' 0 8) (v.extractLsb' 8 8) (v.extractLsb' 16 8) (v.extractLsb' 24 8) = v := by
  apply BitVec.eq_of_toNat_eq
  simp only [wordOfBytes, BitVec.toNat_append, BitVec.extractLsb'_toNat, Nat.shiftRight_eq_div_pow]
  have hv := v.isLt
  rw [← Nat.shiftLeft_add_eq_or_of_lt (by omega), ← Nat.shiftLeft_add_eq_or_of_lt (by omega),
    ← Nat.shiftLeft_add_eq_or_of_lt (by omega)]
  simp only [Nat.shiftLeft_eq]
  omega

/-- A word read where it was stored is the word. -/
theorem Memory.readWord_writeWord (m : Memory) (a : Nat) (v : Word) : (m.writeWord a v).readWord a = some v := by
  simp [Memory.readWord, Memory.read_writeWord, wordOfBytes_wordBytes]

/-- A word store leaves the words at other places alone. -/
theorem Memory.readWord_writeWord_ne (m : Memory) (a x : Nat) (v : Word) (h : x + 4 ≤ a ∨ a + 4 ≤ x) :
    (m.writeWord a v).readWord x = m.readWord x := by
  have e : ∀ k, k < 4 → (m.writeWord a v).read (x + k) = m.read (x + k) := by
    intro k hk
    rw [Memory.read_writeWord]
    rw [if_neg (by omega), if_neg (by omega), if_neg (by omega), if_neg (by omega)]
  simp only [Memory.readWord]
  have e0 := e 0 (by omega)
  simp only [Nat.add_zero] at e0
  rw [e0, e 1 (by omega), e 2 (by omega), e 3 (by omega)]

/-- After forgetting, the forgotten bytes are unspecified and the others as before. -/
theorem Memory.read_forget (m : Memory) (lo n x : Nat) :
    (m.forget lo n).read x = if lo ≤ x ∧ x < lo + n then none else m.read x := by
  induction m with
  | nil => simp [Memory.forget, Memory.read]
  | cons c m ih =>
    obtain ⟨k, v⟩ := c
    by_cases hk : lo ≤ k ∧ k < lo + n
    · have : Memory.forget ((k, v) :: m) lo n = Memory.forget m lo n := by
        simp [Memory.forget, hk]
      rw [this, ih]
      by_cases hx : lo ≤ x ∧ x < lo + n
      · simp [hx]
      · have : k ≠ x := by rintro rfl; exact hx hk
        simp [hx, Memory.read, this]
    · have : Memory.forget ((k, v) :: m) lo n = (k, v) :: Memory.forget m lo n := by
        unfold Memory.forget
        rw [List.filter_cons_of_pos]
        simp only [Bool.not_eq_true', Bool.and_eq_false_iff, decide_eq_false_iff_not]
        omega
      rw [this]
      by_cases hx : k = x
      · subst hx; simp [Memory.read, hk]
      · simp [Memory.read, hx, ih]

theorem Memory.mem_write {m : Memory} {a : Nat} {b : Byte} {c : Host.Cell} (h : c ∈ m.write a b) :
    c = (a, b) ∨ c ∈ m := by
  induction m with
  | nil => simpa [Memory.write] using h
  | cons d m ih =>
    obtain ⟨k, v⟩ := d
    unfold Memory.write at h
    split at h
    · simpa using h
    · split at h
      · rcases List.mem_cons.1 h with h | h
        · exact .inl h
        · exact .inr (List.mem_cons_of_mem _ h)
      · rcases List.mem_cons.1 h with h | h
        · exact .inr (by simp [h])
        · exact (ih h).imp id (List.mem_cons_of_mem _)

/-- A word store lists no address but its own four. -/
theorem Memory.mem_writeWord {m : Memory} {a : Nat} {v : Word} {c : Host.Cell} (h : c ∈ m.writeWord a v) :
    (a ≤ c.1 ∧ c.1 < a + 4) ∨ c ∈ m := by
  simp only [Memory.writeWord, wordBytes, Memory.writeBytes] at h
  rcases Memory.mem_write h with h | h
  · left; subst h; constructor <;> simp only <;> omega
  rcases Memory.mem_write h with h | h
  · left; subst h; constructor <;> simp only <;> omega
  rcases Memory.mem_write h with h | h
  · left; subst h; constructor <;> simp only <;> omega
  rcases Memory.mem_write h with h | h
  · left; subst h; constructor <;> simp only <;> omega
  exact .inr h

/-- Forgetting a range that holds every listed byte leaves nothing. -/
theorem Memory.forget_all {m : Memory} {lo n : Nat} (h : ∀ c ∈ m, lo ≤ c.1 ∧ c.1 < lo + n) : m.forget lo n = [] := by
  unfold Memory.forget
  rw [List.filter_eq_nil_iff]
  intro c hc
  simpa using h c hc

end Sys2Proof.Machine
end

