-- ==== Sys2Proof/Laws/State.lean ====
section
/-! SUPPORT. One lemma per field and update of the state, so that no proof unfolds an update. -/

namespace Sys2Proof.Machine

@[simp] theorem State.advance_cfg (s : State) : (s.advance).cfg = s.cfg := rfl
@[simp] theorem State.advance_step (s : State) : (s.advance).step = s.step + 1#6 := rfl
@[simp] theorem State.advance_rd (s : State) : (s.advance).rd = s.rd := rfl
@[simp] theorem State.advance_ch (s : State) : (s.advance).ch = s.ch := rfl
@[simp] theorem State.advance_cw (s : State) : (s.advance).cw = s.cw := rfl
@[simp] theorem State.advance_si (s : State) : (s.advance).si = s.si := rfl
@[simp] theorem State.advance_mem (s : State) : (s.advance).mem = s.mem := rfl
@[simp] theorem State.advance_trace (s : State) : (s.advance).trace = s.trace := rfl
@[simp] theorem State.advance_fault (s : State) : (s.advance).fault = s.fault := rfl
@[simp] theorem State.advance_script (s : State) : (s.advance).script = s.script := rfl

@[simp] theorem State.goto_cfg (s : State) (x : StepIx) : (s.goto x).cfg = s.cfg := rfl
@[simp] theorem State.goto_step (s : State) (x : StepIx) : (s.goto x).step = x := rfl
@[simp] theorem State.goto_rd (s : State) (x : StepIx) : (s.goto x).rd = s.rd := rfl
@[simp] theorem State.goto_ch (s : State) (x : StepIx) : (s.goto x).ch = s.ch := rfl
@[simp] theorem State.goto_cw (s : State) (x : StepIx) : (s.goto x).cw = s.cw := rfl
@[simp] theorem State.goto_si (s : State) (x : StepIx) : (s.goto x).si = s.si := rfl
@[simp] theorem State.goto_mem (s : State) (x : StepIx) : (s.goto x).mem = s.mem := rfl
@[simp] theorem State.goto_trace (s : State) (x : StepIx) : (s.goto x).trace = s.trace := rfl
@[simp] theorem State.goto_fault (s : State) (x : StepIx) : (s.goto x).fault = s.fault := rfl
@[simp] theorem State.goto_script (s : State) (x : StepIx) : (s.goto x).script = s.script := rfl

@[simp] theorem State.emit_cfg (s : State) (e : Event) : (s.emit e).cfg = s.cfg := rfl
@[simp] theorem State.emit_step (s : State) (e : Event) : (s.emit e).step = s.step := rfl
@[simp] theorem State.emit_rd (s : State) (e : Event) : (s.emit e).rd = s.rd := rfl
@[simp] theorem State.emit_ch (s : State) (e : Event) : (s.emit e).ch = s.ch := rfl
@[simp] theorem State.emit_cw (s : State) (e : Event) : (s.emit e).cw = s.cw := rfl
@[simp] theorem State.emit_si (s : State) (e : Event) : (s.emit e).si = s.si := rfl
@[simp] theorem State.emit_mem (s : State) (e : Event) : (s.emit e).mem = s.mem := rfl
@[simp] theorem State.emit_trace (s : State) (e : Event) : (s.emit e).trace = s.trace ++ [e] := rfl
@[simp] theorem State.emit_fault (s : State) (e : Event) : (s.emit e).fault = s.fault := rfl
@[simp] theorem State.emit_script (s : State) (e : Event) : (s.emit e).script = s.script := rfl

@[simp] theorem State.raise_cfg (s : State) (f : Fault) : (s.raise f).cfg = s.cfg := rfl
@[simp] theorem State.raise_step (s : State) (f : Fault) : (s.raise f).step = s.step := rfl
@[simp] theorem State.raise_rd (s : State) (f : Fault) : (s.raise f).rd = s.rd := rfl
@[simp] theorem State.raise_ch (s : State) (f : Fault) : (s.raise f).ch = s.ch := rfl
@[simp] theorem State.raise_cw (s : State) (f : Fault) : (s.raise f).cw = s.cw := rfl
@[simp] theorem State.raise_si (s : State) (f : Fault) : (s.raise f).si = s.si := rfl
@[simp] theorem State.raise_mem (s : State) (f : Fault) : (s.raise f).mem = s.mem := rfl
@[simp] theorem State.raise_trace (s : State) (f : Fault) : (s.raise f).trace = s.trace := rfl
@[simp] theorem State.raise_fault (s : State) (f : Fault) : (s.raise f).fault = some f := rfl
@[simp] theorem State.raise_script (s : State) (f : Fault) : (s.raise f).script = s.script := rfl

@[simp] theorem handOver_cfg (r : Reg) (s : State) : (handOver r s).cfg = s.cfg := by cases r <;> rfl
@[simp] theorem handOver_step (r : Reg) (s : State) : (handOver r s).step = s.step := by cases r <;> rfl
@[simp] theorem handOver_rd (r : Reg) (s : State) : (handOver r s).rd = s.rd := by cases r <;> rfl
@[simp] theorem handOver_ch (r : Reg) (s : State) : (handOver r s).ch = s.ch := by cases r <;> rfl
@[simp] theorem handOver_cw (r : Reg) (s : State) : (handOver r s).cw = s.cw := by cases r <;> rfl
@[simp] theorem handOver_si (r : Reg) (s : State) : (handOver r s).si = s.si := by cases r <;> rfl
@[simp] theorem handOver_trace (r : Reg) (s : State) : (handOver r s).trace = s.trace := by cases r <;> rfl
@[simp] theorem handOver_fault (r : Reg) (s : State) : (handOver r s).fault = s.fault := by cases r <;> rfl
@[simp] theorem handOver_script (r : Reg) (s : State) : (handOver r s).script = s.script := by cases r <;> rfl
@[simp] theorem handOver_mboxWrite_mem (s : State) :
    (handOver .mboxWrite s).mem = s.mem.forget s.cfg.bufAddr.toNat Config.mboxBytes := rfl

@[simp] theorem State.initial_cfg (c : Cfg) (sc : Script) : (State.initial c sc).cfg = c := rfl
@[simp] theorem State.initial_step (c : Cfg) (sc : Script) : (State.initial c sc).step = 0#6 := rfl
@[simp] theorem State.initial_rd (c : Cfg) (sc : Script) : (State.initial c sc).rd = .unwritten := rfl
@[simp] theorem State.initial_ch (c : Cfg) (sc : Script) : (State.initial c sc).ch = .unwritten := rfl
@[simp] theorem State.initial_cw (c : Cfg) (sc : Script) : (State.initial c sc).cw = .unwritten := rfl
@[simp] theorem State.initial_si (c : Cfg) (sc : Script) : (State.initial c sc).si = 0 := rfl
@[simp] theorem State.initial_mem (c : Cfg) (sc : Script) : (State.initial c sc).mem = [] := rfl
@[simp] theorem State.initial_trace (c : Cfg) (sc : Script) : (State.initial c sc).trace = [] := rfl
@[simp] theorem State.initial_fault (c : Cfg) (sc : Script) : (State.initial c sc).fault = none := rfl
@[simp] theorem State.initial_script (c : Cfg) (sc : Script) : (State.initial c sc).script = sc := rfl

end Sys2Proof.Machine
end

