-- ==== Sys2Proof/Laws/Ops.lean ====
section
/-! SUPPORT. What each shared operation does, said once: every micro-operation kind answers the next state given here, and
proofs cite these equations instead of unfolding the operations. -/

namespace Sys2Proof.Machine

@[simp] theorem conclude_ok (s t : State) : conclude s (.ok t) = .next t := rfl
@[simp] theorem conclude_error (s : State) (f : Fault) : conclude s (.error f) = .next (s.raise f) := rfl

/-- The register address a bus fault names. -/
abbrev busFault (s : State) (reg : Reg) (k : Access) : State := s.raise (.fBus (s.cfg.addr reg) k)

/-- The state after a bus read of `reg`. -/
abbrev afterRead (s : State) (reg : Reg) : State :=
  { s with
    rd := .holds (s.envAnswer (s.cfg.addr reg))
    trace := s.trace ++ [.busR (s.cfg.addr reg) (s.envAnswer (s.cfg.addr reg))]
    script := Script.pop s.script (s.cfg.addr reg) }

theorem opWr_eq (reg : Reg) (v : Word) (s : State) : opWr reg v s = .next
    (if s.cfg.isMapped (s.cfg.addr reg) then
      { s with trace := s.trace ++ [.busW (s.cfg.addr reg) v], step := s.step + 1#6 }
     else busFault s reg .write) := by
  unfold opWr mmioWrite
  by_cases h : s.cfg.isMapped (s.cfg.addr reg) <;> simp [h, Except.map] <;> rfl

theorem opWrb_eq (reg : Reg) (s : State) : opWrb reg s = .next
    (match s.ch with
     | .unwritten => s.raise (.fUninit .ch)
     | .holds b =>
       if s.cfg.isMapped (s.cfg.addr reg) then
         { s with trace := s.trace ++ [.busW (s.cfg.addr reg) (zext32 b)], step := s.step + 1#6 }
       else busFault s reg .write) := by
  unfold opWrb mmioWrite readCh
  cases hc : s.ch with
  | unwritten => rfl
  | holds b =>
    by_cases h : s.cfg.isMapped (s.cfg.addr reg) <;> simp [h, Except.map, Except.bind] <;> simp [← hc] <;> rfl

theorem opWrc_eq (reg : Reg) (s : State) : opWrc reg s = .next
    (match s.cw with
     | .unwritten => s.raise (.fUninit .cw)
     | .holds w =>
       if s.cfg.isMapped (s.cfg.addr reg) then (handOver reg (s.emit (.busW (s.cfg.addr reg) w))).advance
       else busFault s reg .write) := by
  unfold opWrc mmioWrite readCw
  cases hc : s.cw with
  | unwritten => rfl
  | holds w => by_cases h : s.cfg.isMapped (s.cfg.addr reg) <;> simp [h, Except.map, Except.bind]

theorem opRdb_eq (reg : Reg) (s : State) : opRdb reg s = .next
    (if s.cfg.isMapped (s.cfg.addr reg) then
      { afterRead s reg with ch := .holds (low8 (s.envAnswer (s.cfg.addr reg))), step := s.step + 1#6 }
     else busFault s reg .read) := by
  unfold opRdb mmioRead
  by_cases h : s.cfg.isMapped (s.cfg.addr reg) <;> simp [h, Except.map] <;> rfl

theorem opDly_eq (n : Nat) (s : State) : opDly n s = .next
    { s with trace := s.trace ++ [.delay n], step := s.step + 1#6 } := rfl

theorem opWtc_eq (reg : Reg) (mask : Word) (s : State) : opWtc reg mask s = .next
    (if s.cfg.isMapped (s.cfg.addr reg) then
      { afterRead s reg with
        step := if s.envAnswer (s.cfg.addr reg) &&& mask = 0#32 then s.step + 1#6 else s.step }
     else busFault s reg .read) := by
  unfold opWtc mmioRead pollClear
  by_cases h : s.cfg.isMapped (s.cfg.addr reg)
  · by_cases hm : s.envAnswer (s.cfg.addr reg) &&& mask = 0#32 <;> simp [h, hm, Except.map] <;> rfl
  · simp [h, Except.map]

theorem opStw_eq (i : Nat) (v : Word) (s : State) : opStw i v s = .next
    (if s.cfg.isMappedWord (bufWordAddr s.cfg.bufAddr i) then
      { s with
        mem := s.mem.writeWord (bufWordAddr s.cfg.bufAddr i).toNat v
        trace := s.trace ++ [.bufW i v], step := s.step + 1#6 }
     else s.raise (.fBus (bufWordAddr s.cfg.bufAddr i) .write)) := by
  unfold opStw bufWrite
  by_cases h : s.cfg.isMappedWord (bufWordAddr s.cfg.bufAddr i) <;> simp [h, Except.map] <;> rfl

theorem opLcw_eq (s : State) : opLcw s = .next
    { s with cw := .holds (channelWordOf s.cfg.bufAddr), step := s.step + 1#6 } := rfl

theorem opRdm_eq (reg : Reg) (x : StepIx) (s : State) : opRdm reg x s = .next
    (match s.cw with
     | .unwritten => s.raise (.fUninit .cw)
     | .holds w =>
       if s.cfg.isMapped (s.cfg.addr reg) then
         { afterRead s reg with step := if s.envAnswer (s.cfg.addr reg) = w then s.step + 1#6 else x }
       else busFault s reg .read) := by
  unfold opRdm mmioRead readCw matchesChannel
  cases hc : s.cw with
  | unwritten => rfl
  | holds w =>
    by_cases h : s.cfg.isMapped (s.cfg.addr reg)
    · by_cases hm : s.envAnswer (s.cfg.addr reg) = w <;> simp [h, hm, Except.map, Except.bind] <;> rfl
    · simp [h, Except.map, Except.bind]

theorem opBnp_eq (x : StepIx) (s : State) : opBnp x s = .next
    { s with step := if s.cfg.profile.requiresClockNegotiation then s.step + 1#6 else x } := by
  unfold opBnp
  by_cases h : s.cfg.profile.requiresClockNegotiation <;> simp [h] <;> rfl

theorem opLdc_eq (b : Byte) (s : State) : opLdc b s = .next { s with ch := .holds b, step := s.step + 1#6 } := rfl

theorem opLdg_eq (x : StepIx) (s : State) : opLdg x s = .next
    (if s.si = s.cfg.greetingLen then { s with step := x }
     else { s with ch := .holds (greetingByte s.cfg s.si), si := s.si + 1, step := s.step + 1#6 }) := rfl

theorem opJmp_eq (x : StepIx) (s : State) : opJmp x s = .next { s with step := x } := rfl

theorem opReserved_eq (x : StepIx) (s : State) : opReserved x s = .next (s.raise (.fStep x)) := rfl

theorem opLoadChannel_eq (w : Word) (s : State) :
    opLoadChannel w s = .next { s with cw := .holds w, step := s.step + 1#6 } := rfl

end Sys2Proof.Machine
end

