-- ==== Sys2Proof/Laws/Setup.lean ====
section
/-! SUPPORT. What a well-formed configuration gives (00_scope.md R14): alignment, distinct register addresses, no address sum
that wraps, a buffer clear of the registers; and what building one answers. -/

namespace Sys2Proof

theorem cfgCheck_none_iff (b : BoardProfile) (p : Params) : cfgCheck b p = none ↔
    alignedBuffer p = true ∧ clauseC b p = true ∧ clauseD b p = true ∧ clauseE p = true ∧ clauseF p = true ∧
      clauseG b p = true := by
  unfold cfgCheck
  cases alignedBuffer p <;> cases clauseC b p <;> cases clauseD b p <;> cases clauseE p <;> cases clauseF p <;>
    cases clauseG b p <;> simp

theorem mem_all (r : Reg) : r ∈ Reg.all := by cases r <;> decide

theorem all_regs {q : Reg → Bool} : Reg.all.all q = true ↔ ∀ r : Reg, q r = true := by
  rw [List.all_eq_true]
  exact ⟨fun h r => h r (mem_all r), fun h r _ => h r⟩

theorem clauseC_iff (b : BoardProfile) (p : Params) : clauseC b p = true ↔
    b.baseAddress.toNat % 4 = 0 ∧ (∀ r : Reg, (p.off r).toNat % 4 = 0) ∧ ∀ r q : Reg, p.off r = p.off q → r = q := by
  unfold clauseC
  rw [Bool.and_eq_true, Bool.and_eq_true, all_regs, decide_eq_true_eq, and_assoc]
  simp only [beq_iff_eq]
  refine and_congr Iff.rfl (and_congr Iff.rfl ⟨fun h r q e => ?_, fun h => ?_⟩)
  · exact List.inj_on_of_nodup_map h (mem_all r) (mem_all q) e
  · exact List.Nodup.map (fun r q e => h r q e) (by decide)

theorem clauseD_iff (b : BoardProfile) (p : Params) : clauseD b p = true ↔
    (∀ r : Reg, b.baseAddress.toNat + (p.off r).toNat < 2 ^ 32) ∧ p.mboxBufAddr.toNat + 36 ≤ 2 ^ 32 := by
  unfold clauseD
  rw [Bool.and_eq_true, all_regs]
  simp only [decide_eq_true_eq]
  rfl

theorem clauseE_iff (p : Params) : clauseE p = true ↔
    popCount p.frTxff = 1 ∧ popCount p.frRxfe = 1 ∧ popCount p.mboxFull = 1 ∧ popCount p.mboxEmpty = 1 ∧
      p.frTxff ≠ p.frRxfe ∧ p.mboxFull ≠ p.mboxEmpty := by
  unfold clauseE
  simp only [Bool.and_eq_true, beq_iff_eq, bne_iff_ne, and_assoc]

theorem clauseF_iff (p : Params) : clauseF p = true ↔ popCount p.pudclkPins = 2 ∧ popCount p.crValue = 3 := by
  unfold clauseF
  simp only [Bool.and_eq_true, beq_iff_eq]

theorem clauseG_iff (b : BoardProfile) (p : Params) : clauseG b p = true ↔
    ∀ r : Reg, p.mboxBufAddr.toNat + 36 ≤ (regAddr b p r).toNat ∨ (regAddr b p r).toNat + 4 ≤ p.mboxBufAddr.toNat := by
  unfold clauseG
  rw [all_regs]
  simp only [Bool.or_eq_true, decide_eq_true_eq]
  rfl

theorem alignedBuffer_iff (p : Params) : alignedBuffer p = true ↔ p.mboxBufAddr.toNat % 16 = 0 := by
  unfold alignedBuffer
  rw [beq_iff_eq]
  rfl

namespace Cfg

theorem bufAddr_mod (c : Cfg) : c.bufAddr.toNat % 16 = 0 :=
  (alignedBuffer_iff _).1 ((cfgCheck_none_iff _ _).1 c.ok).1

theorem bufAddr_le (c : Cfg) : c.bufAddr.toNat + 36 ≤ 2 ^ 32 :=
  ((clauseD_iff _ _).1 ((cfgCheck_none_iff _ _).1 c.ok).2.2.1).2

theorem addr_toNat (c : Cfg) (r : Reg) : (c.addr r).toNat = c.profile.baseAddress.toNat + (c.params.off r).toNat := by
  have h := ((clauseD_iff _ _).1 ((cfgCheck_none_iff _ _).1 c.ok).2.2.1).1 r
  simp only [addr, regAddr, BitVec.toNat_add]
  exact Nat.mod_eq_of_lt h

/-- The thirteen registers have thirteen addresses. -/
theorem addr_inj (c : Cfg) {r q : Reg} (h : c.addr r = c.addr q) : r = q := by
  have e : (c.params.off r) = c.params.off q := by
    have h' := congrArg BitVec.toNat h
    rw [addr_toNat, addr_toNat] at h'
    exact BitVec.eq_of_toNat_eq (by omega)
  exact ((clauseC_iff _ _).1 ((cfgCheck_none_iff _ _).1 c.ok).2.1).2.2 r q e

theorem addr_eq_iff (c : Cfg) (r q : Reg) : c.addr r = c.addr q ↔ r = q := ⟨c.addr_inj, fun h => h ▸ rfl⟩

/-- The address of a buffer word does not wrap. -/
theorem bufWordAddr_toNat (c : Cfg) {i : Nat} (h : i < 9) :
    (bufWordAddr c.bufAddr i).toNat = c.bufAddr.toNat + 4 * i := by
  have := c.bufAddr_le
  simp only [bufWordAddr, BitVec.toNat_add, BitVec.toNat_ofNat]
  omega

end Cfg

/-- Building with one profile answers what the check answers. -/
theorem Cfg.build_single (b : BoardProfile) (p : Params) :
    (∃ c : Cfg, Cfg.build [b] p = .ok c ∧ cfgCheck b p = none ∧ c.profile = b ∧ c.params = p) ∨
    ∃ e, Cfg.build [b] p = .error e ∧ cfgCheck b p = some e := by
  unfold Cfg.build
  simp only
  split
  · rename_i h; exact .inl ⟨_, rfl, h, rfl, rfl⟩
  · rename_i e h; exact .inr ⟨e, rfl, h⟩

/-- Building with no profile or several is refused first (clause a). -/
theorem Cfg.build_other {profiles : List BoardProfile} (h : profiles.length ≠ 1) (p : Params) :
    Cfg.build profiles p = .error (.clause .a) := by
  unfold Cfg.build
  match profiles with
  | [] => rfl
  | [b] => simp at h
  | _ :: _ :: _ => rfl

end Sys2Proof
end

