-- ==== Sys2Proof/Laws/Step.lean ====
section
/-! SUPPORT. What a step can do, said once: `step_cases` lists the 39 entries of the microprogram and the reserved indices,
each with the operation it runs. Invariants are proved by cases on it. -/

namespace Sys2Proof.Machine

theorem step_of_fault {s : State} {f : Fault} (h : s.fault = some f) : step s = .fault f := by
  unfold step; rw [h]

theorem step_of_none {s : State} (h : s.fault = none) : step s = exec (decodeStep s.step) s := by
  unfold step; rw [h]; rfl

theorem fault_none_of_step {s t : State} (h : step s = .next t) : s.fault = none := by
  cases hf : s.fault with
  | none => rfl
  | some f => rw [step_of_fault hf] at h; exact nomatch h

/-- The index decides the row. -/
theorem decodeStep_cases (x : StepIx) :
    (x = 0#6 ∧ decodeStep x = .sCrOff) ∨
    (x = 1#6 ∧ decodeStep x = .sPudClr) ∨
    (x = 2#6 ∧ decodeStep x = .sDlyA) ∨
    (x = 3#6 ∧ decodeStep x = .sPudclkSet) ∨
    (x = 4#6 ∧ decodeStep x = .sDlyB) ∨
    (x = 5#6 ∧ decodeStep x = .sPudclkClr) ∨
    (x = 6#6 ∧ decodeStep x = .sIcr) ∨
    (x = 7#6 ∧ decodeStep x = .sNeg) ∨
    (x = 8#6 ∧ decodeStep x = .sMbW0) ∨
    (x = 9#6 ∧ decodeStep x = .sMbW1) ∨
    (x = 10#6 ∧ decodeStep x = .sMbW2) ∨
    (x = 11#6 ∧ decodeStep x = .sMbW3) ∨
    (x = 12#6 ∧ decodeStep x = .sMbW4) ∨
    (x = 13#6 ∧ decodeStep x = .sMbW5) ∨
    (x = 14#6 ∧ decodeStep x = .sMbW6) ∨
    (x = 15#6 ∧ decodeStep x = .sMbW7) ∨
    (x = 16#6 ∧ decodeStep x = .sMbW8) ∨
    (x = 17#6 ∧ decodeStep x = .sMbCw) ∨
    (x = 18#6 ∧ decodeStep x = .sMbWfull) ∨
    (x = 19#6 ∧ decodeStep x = .sMbSend) ∨
    (x = 20#6 ∧ decodeStep x = .sMbWempty) ∨
    (x = 21#6 ∧ decodeStep x = .sMbRecv) ∨
    (x = 22#6 ∧ decodeStep x = .sIbrd) ∨
    (x = 23#6 ∧ decodeStep x = .sFbrd) ∨
    (x = 24#6 ∧ decodeStep x = .sLcrh) ∨
    (x = 25#6 ∧ decodeStep x = .sImsc) ∨
    (x = 26#6 ∧ decodeStep x = .sCrOn) ∨
    (x = 27#6 ∧ decodeStep x = .sGrNext) ∨
    (x = 28#6 ∧ decodeStep x = .sGrWtx) ∨
    (x = 29#6 ∧ decodeStep x = .sGrSend) ∨
    (x = 30#6 ∧ decodeStep x = .sGrLoop) ∨
    (x = 31#6 ∧ decodeStep x = .sEcWrx) ∨
    (x = 32#6 ∧ decodeStep x = .sEcRecv) ∨
    (x = 33#6 ∧ decodeStep x = .sEcWtx1) ∨
    (x = 34#6 ∧ decodeStep x = .sEcSend1) ∨
    (x = 35#6 ∧ decodeStep x = .sEcNl) ∨
    (x = 36#6 ∧ decodeStep x = .sEcWtx2) ∨
    (x = 37#6 ∧ decodeStep x = .sEcSend2) ∨
    (x = 38#6 ∧ decodeStep x = .sEcLoop) ∨
    (39 ≤ x.toNat ∧ (decodeStep x).entry = none ∧ encode (decodeStep x) = .step x ∧
      (decodeStep x = .reserved39 ∨ (∃ y, decodeStep x = .reserved40To47 y) ∨ ∃ y, decodeStep x = .reserved48To63 y)) := by
  by_cases hx : 39 ≤ x.toNat
  · refine .inr <| .inr <| .inr <| .inr <| .inr <| .inr <| .inr <| .inr <| .inr <| .inr <| .inr <| .inr <| .inr <| .inr <| .inr <| .inr <| .inr <| .inr <| .inr <| .inr <| .inr <| .inr <| .inr <| .inr <| .inr <| .inr <| .inr <| .inr <| .inr <| .inr <| .inr <| .inr <| .inr <| .inr <| .inr <| .inr <| .inr <| .inr <| .inr <| ⟨hx, ?_⟩
    revert x
    decide
  · obtain ⟨n, hn, rfl⟩ : ∃ n, n < 39 ∧ x = BitVec.ofNat 6 n := ⟨x.toNat, by omega, by simp⟩
    clear hx
    interval_cases n
    · exact .inl ⟨rfl, rfl⟩
    · exact .inr <| .inl ⟨rfl, rfl⟩
    · exact .inr <| .inr <| .inl ⟨rfl, rfl⟩
    · exact .inr <| .inr <| .inr <| .inl ⟨rfl, rfl⟩
    · exact .inr <| .inr <| .inr <| .inr <| .inl ⟨rfl, rfl⟩
    · exact .inr <| .inr <| .inr <| .inr <| .inr <| .inl ⟨rfl, rfl⟩
    · exact .inr <| .inr <| .inr <| .inr <| .inr <| .inr <| .inl ⟨rfl, rfl⟩
    · exact .inr <| .inr <| .inr <| .inr <| .inr <| .inr <| .inr <| .inl ⟨rfl, rfl⟩
    · exact .inr <| .inr <| .inr <| .inr <| .inr <| .inr <| .inr <| .inr <| .inl ⟨rfl, rfl⟩
    · exact .inr <| .inr <| .inr <| .inr <| .inr <| .inr <| .inr <| .inr <| .inr <| .inl ⟨rfl, rfl⟩
    · exact .inr <| .inr <| .inr <| .inr <| .inr <| .inr <| .inr <| .inr <| .inr <| .inr <| .inl ⟨rfl, rfl⟩
    · exact .inr <| .inr <| .inr <| .inr <| .inr <| .inr <| .inr <| .inr <| .inr <| .inr <| .inr <| .inl ⟨rfl, rfl⟩
    · exact .inr <| .inr <| .inr <| .inr <| .inr <| .inr <| .inr <| .inr <| .inr <| .inr <| .inr <| .inr <| .inl ⟨rfl, rfl⟩
    · exact .inr <| .inr <| .inr <| .inr <| .inr <| .inr <| .inr <| .inr <| .inr <| .inr <| .inr <| .inr <| .inr <| .inl ⟨rfl, rfl⟩
    · exact .inr <| .inr <| .inr <| .inr <| .inr <| .inr <| .inr <| .inr <| .inr <| .inr <| .inr <| .inr <| .inr <| .inr <| .inl ⟨rfl, rfl⟩
    · exact .inr <| .inr <| .inr <| .inr <| .inr <| .inr <| .inr <| .inr <| .inr <| .inr <| .inr <| .inr <| .inr <| .inr <| .inr <| .inl ⟨rfl, rfl⟩
    · exact .inr <| .inr <| .inr <| .inr <| .inr <| .inr <| .inr <| .inr <| .inr <| .inr <| .inr <| .inr <| .inr <| .inr <| .inr <| .inr <| .inl ⟨rfl, rfl⟩
    · exact .inr <| .inr <| .inr <| .inr <| .inr <| .inr <| .inr <| .inr <| .inr <| .inr <| .inr <| .inr <| .inr <| .inr <| .inr <| .inr <| .inr <| .inl ⟨rfl, rfl⟩
    · exact .inr <| .inr <| .inr <| .inr <| .inr <| .inr <| .inr <| .inr <| .inr <| .inr <| .inr <| .inr <| .inr <| .inr <| .inr <| .inr <| .inr <| .inr <| .inl ⟨rfl, rfl⟩
    · exact .inr <| .inr <| .inr <| .inr <| .inr <| .inr <| .inr <| .inr <| .inr <| .inr <| .inr <| .inr <| .inr <| .inr <| .inr <| .inr <| .inr <| .inr <| .inr <| .inl ⟨rfl, rfl⟩
    · exact .inr <| .inr <| .inr <| .inr <| .inr <| .inr <| .inr <| .inr <| .inr <| .inr <| .inr <| .inr <| .inr <| .inr <| .inr <| .inr <| .inr <| .inr <| .inr <| .inr <| .inl ⟨rfl, rfl⟩
    · exact .inr <| .inr <| .inr <| .inr <| .inr <| .inr <| .inr <| .inr <| .inr <| .inr <| .inr <| .inr <| .inr <| .inr <| .inr <| .inr <| .inr <| .inr <| .inr <| .inr <| .inr <| .inl ⟨rfl, rfl⟩
    · exact .inr <| .inr <| .inr <| .inr <| .inr <| .inr <| .inr <| .inr <| .inr <| .inr <| .inr <| .inr <| .inr <| .inr <| .inr <| .inr <| .inr <| .inr <| .inr <| .inr <| .inr <| .inr <| .inl ⟨rfl, rfl⟩
    · exact .inr <| .inr <| .inr <| .inr <| .inr <| .inr <| .inr <| .inr <| .inr <| .inr <| .inr <| .inr <| .inr <| .inr <| .inr <| .inr <| .inr <| .inr <| .inr <| .inr <| .inr <| .inr <| .inr <| .inl ⟨rfl, rfl⟩
    · exact .inr <| .inr <| .inr <| .inr <| .inr <| .inr <| .inr <| .inr <| .inr <| .inr <| .inr <| .inr <| .inr <| .inr <| .inr <| .inr <| .inr <| .inr <| .inr <| .inr <| .inr <| .inr <| .inr <| .inr <| .inl ⟨rfl, rfl⟩
    · exact .inr <| .inr <| .inr <| .inr <| .inr <| .inr <| .inr <| .inr <| .inr <| .inr <| .inr <| .inr <| .inr <| .inr <| .inr <| .inr <| .inr <| .inr <| .inr <| .inr <| .inr <| .inr <| .inr <| .inr <| .inr <| .inl ⟨rfl, rfl⟩
    · exact .inr <| .inr <| .inr <| .inr <| .inr <| .inr <| .inr <| .inr <| .inr <| .inr <| .inr <| .inr <| .inr <| .inr <| .inr <| .inr <| .inr <| .inr <| .inr <| .inr <| .inr <| .inr <| .inr <| .inr <| .inr <| .inr <| .inl ⟨rfl, rfl⟩
    · exact .inr <| .inr <| .inr <| .inr <| .inr <| .inr <| .inr <| .inr <| .inr <| .inr <| .inr <| .inr <| .inr <| .inr <| .inr <| .inr <| .inr <| .inr <| .inr <| .inr <| .inr <| .inr <| .inr <| .inr <| .inr <| .inr <| .inr <| .inl ⟨rfl, rfl⟩
    · exact .inr <| .inr <| .inr <| .inr <| .inr <| .inr <| .inr <| .inr <| .inr <| .inr <| .inr <| .inr <| .inr <| .inr <| .inr <| .inr <| .inr <| .inr <| .inr <| .inr <| .inr <| .inr <| .inr <| .inr <| .inr <| .inr <| .inr <| .inr <| .inl ⟨rfl, rfl⟩
    · exact .inr <| .inr <| .inr <| .inr <| .inr <| .inr <| .inr <| .inr <| .inr <| .inr <| .inr <| .inr <| .inr <| .inr <| .inr <| .inr <| .inr <| .inr <| .inr <| .inr <| .inr <| .inr <| .inr <| .inr <| .inr <| .inr <| .inr <| .inr <| .inr <| .inl ⟨rfl, rfl⟩
    · exact .inr <| .inr <| .inr <| .inr <| .inr <| .inr <| .inr <| .inr <| .inr <| .inr <| .inr <| .inr <| .inr <| .inr <| .inr <| .inr <| .inr <| .inr <| .inr <| .inr <| .inr <| .inr <| .inr <| .inr <| .inr <| .inr <| .inr <| .inr <| .inr <| .inr <| .inl ⟨rfl, rfl⟩
    · exact .inr <| .inr <| .inr <| .inr <| .inr <| .inr <| .inr <| .inr <| .inr <| .inr <| .inr <| .inr <| .inr <| .inr <| .inr <| .inr <| .inr <| .inr <| .inr <| .inr <| .inr <| .inr <| .inr <| .inr <| .inr <| .inr <| .inr <| .inr <| .inr <| .inr <| .inr <| .inl ⟨rfl, rfl⟩
    · exact .inr <| .inr <| .inr <| .inr <| .inr <| .inr <| .inr <| .inr <| .inr <| .inr <| .inr <| .inr <| .inr <| .inr <| .inr <| .inr <| .inr <| .inr <| .inr <| .inr <| .inr <| .inr <| .inr <| .inr <| .inr <| .inr <| .inr <| .inr <| .inr <| .inr <| .inr <| .inr <| .inl ⟨rfl, rfl⟩
    · exact .inr <| .inr <| .inr <| .inr <| .inr <| .inr <| .inr <| .inr <| .inr <| .inr <| .inr <| .inr <| .inr <| .inr <| .inr <| .inr <| .inr <| .inr <| .inr <| .inr <| .inr <| .inr <| .inr <| .inr <| .inr <| .inr <| .inr <| .inr <| .inr <| .inr <| .inr <| .inr <| .inr <| .inl ⟨rfl, rfl⟩
    · exact .inr <| .inr <| .inr <| .inr <| .inr <| .inr <| .inr <| .inr <| .inr <| .inr <| .inr <| .inr <| .inr <| .inr <| .inr <| .inr <| .inr <| .inr <| .inr <| .inr <| .inr <| .inr <| .inr <| .inr <| .inr <| .inr <| .inr <| .inr <| .inr <| .inr <| .inr <| .inr <| .inr <| .inr <| .inl ⟨rfl, rfl⟩
    · exact .inr <| .inr <| .inr <| .inr <| .inr <| .inr <| .inr <| .inr <| .inr <| .inr <| .inr <| .inr <| .inr <| .inr <| .inr <| .inr <| .inr <| .inr <| .inr <| .inr <| .inr <| .inr <| .inr <| .inr <| .inr <| .inr <| .inr <| .inr <| .inr <| .inr <| .inr <| .inr <| .inr <| .inr <| .inr <| .inl ⟨rfl, rfl⟩
    · exact .inr <| .inr <| .inr <| .inr <| .inr <| .inr <| .inr <| .inr <| .inr <| .inr <| .inr <| .inr <| .inr <| .inr <| .inr <| .inr <| .inr <| .inr <| .inr <| .inr <| .inr <| .inr <| .inr <| .inr <| .inr <| .inr <| .inr <| .inr <| .inr <| .inr <| .inr <| .inr <| .inr <| .inr <| .inr <| .inr <| .inl ⟨rfl, rfl⟩
    · exact .inr <| .inr <| .inr <| .inr <| .inr <| .inr <| .inr <| .inr <| .inr <| .inr <| .inr <| .inr <| .inr <| .inr <| .inr <| .inr <| .inr <| .inr <| .inr <| .inr <| .inr <| .inr <| .inr <| .inr <| .inr <| .inr <| .inr <| .inr <| .inr <| .inr <| .inr <| .inr <| .inr <| .inr <| .inr <| .inr <| .inr <| .inl ⟨rfl, rfl⟩
    · exact .inr <| .inr <| .inr <| .inr <| .inr <| .inr <| .inr <| .inr <| .inr <| .inr <| .inr <| .inr <| .inr <| .inr <| .inr <| .inr <| .inr <| .inr <| .inr <| .inr <| .inr <| .inr <| .inr <| .inr <| .inr <| .inr <| .inr <| .inr <| .inr <| .inr <| .inr <| .inr <| .inr <| .inr <| .inr <| .inr <| .inr <| .inr <| .inl ⟨rfl, rfl⟩

/-- A reserved index raises `F_STEP` (60_exceptions.md R235). -/
theorem exec_reserved {s : State} {x : StepIx} (he : encode (decodeStep x) = .step x)
    (h : decodeStep x = .reserved39 ∨ (∃ y, decodeStep x = .reserved40To47 y) ∨ ∃ y, decodeStep x = .reserved48To63 y) :
    exec (decodeStep x) s = .next (s.raise (.fStep x)) := by
  rcases h with h | ⟨y, h⟩ | ⟨y, h⟩ <;> rw [h] at he ⊢ <;> simp only [encode, Code.step.injEq] at he <;> subst he <;> rfl

/-- What one step can do: the entry at its index, or `F_STEP`. -/
theorem step_cases {s t : State} (h : step s = .next t) :
    s.fault = none ∧ (
    (s.step = 0#6 ∧ opWr .uart0Cr 0#32 s = .next t) ∨
    (s.step = 1#6 ∧ opWr .gppud 0#32 s = .next t) ∨
    (s.step = 2#6 ∧ opDly s.cfg.params.settleCount s = .next t) ∨
    (s.step = 3#6 ∧ opWr .gppudclk0 s.cfg.params.pudclkPins s = .next t) ∨
    (s.step = 4#6 ∧ opDly s.cfg.params.settleCount s = .next t) ∨
    (s.step = 5#6 ∧ opWr .gppudclk0 0#32 s = .next t) ∨
    (s.step = 6#6 ∧ opWr .uart0Icr s.cfg.params.icrAll s = .next t) ∨
    (s.step = 7#6 ∧ opBnp 22#6 s = .next t) ∨
    (s.step = 8#6 ∧ opStw 0 Config.byteLength s = .next t) ∨
    (s.step = 9#6 ∧ opStw 1 Config.requestCode s = .next t) ∨
    (s.step = 10#6 ∧ opStw 2 Config.tagSetClockRate s = .next t) ∨
    (s.step = 11#6 ∧ opStw 3 Config.tagBufSize s = .next t) ∨
    (s.step = 12#6 ∧ opStw 4 Config.tagReqSize s = .next t) ∨
    (s.step = 13#6 ∧ opStw 5 Config.clockIdUart s = .next t) ∨
    (s.step = 14#6 ∧ opStw 6 s.cfg.params.uartClockHz s = .next t) ∨
    (s.step = 15#6 ∧ opStw 7 Config.thirdValueWord s = .next t) ∨
    (s.step = 16#6 ∧ opStw 8 Config.endTag s = .next t) ∨
    (s.step = 17#6 ∧ opLcw s = .next t) ∨
    (s.step = 18#6 ∧ opWtc .mboxStatus s.cfg.params.mboxFull s = .next t) ∨
    (s.step = 19#6 ∧ opWrc .mboxWrite s = .next t) ∨
    (s.step = 20#6 ∧ opWtc .mboxStatus s.cfg.params.mboxEmpty s = .next t) ∨
    (s.step = 21#6 ∧ opRdm .mboxRead 20#6 s = .next t) ∨
    (s.step = 22#6 ∧ opWr .uart0Ibrd s.cfg.params.ibrdValue s = .next t) ∨
    (s.step = 23#6 ∧ opWr .uart0Fbrd s.cfg.params.fbrdValue s = .next t) ∨
    (s.step = 24#6 ∧ opWr .uart0Lcrh s.cfg.params.lcrhValue s = .next t) ∨
    (s.step = 25#6 ∧ opWr .uart0Imsc s.cfg.params.imscValue s = .next t) ∨
    (s.step = 26#6 ∧ opWr .uart0Cr s.cfg.params.crValue s = .next t) ∨
    (s.step = 27#6 ∧ opLdg 31#6 s = .next t) ∨
    (s.step = 28#6 ∧ opWtc .uart0Fr s.cfg.params.frTxff s = .next t) ∨
    (s.step = 29#6 ∧ opWrb .uart0Dr s = .next t) ∨
    (s.step = 30#6 ∧ opJmp 27#6 s = .next t) ∨
    (s.step = 31#6 ∧ opWtc .uart0Fr s.cfg.params.frRxfe s = .next t) ∨
    (s.step = 32#6 ∧ opRdb .uart0Dr s = .next t) ∨
    (s.step = 33#6 ∧ opWtc .uart0Fr s.cfg.params.frTxff s = .next t) ∨
    (s.step = 34#6 ∧ opWrb .uart0Dr s = .next t) ∨
    (s.step = 35#6 ∧ opLdc Config.newline s = .next t) ∨
    (s.step = 36#6 ∧ opWtc .uart0Fr s.cfg.params.frTxff s = .next t) ∨
    (s.step = 37#6 ∧ opWrb .uart0Dr s = .next t) ∨
    (s.step = 38#6 ∧ opJmp 31#6 s = .next t) ∨
    (39 ≤ s.step.toNat ∧ t = s.raise (.fStep s.step))) := by
  have hf := fault_none_of_step h
  refine ⟨hf, ?_⟩
  rw [step_of_none hf] at h
  rcases decodeStep_cases s.step with
    ⟨e, d⟩ | ⟨e, d⟩ | ⟨e, d⟩ | ⟨e, d⟩ | ⟨e, d⟩ | ⟨e, d⟩ | ⟨e, d⟩ | ⟨e, d⟩ | ⟨e, d⟩ | ⟨e, d⟩ | ⟨e, d⟩ | ⟨e, d⟩ | ⟨e, d⟩ | ⟨e, d⟩ | ⟨e, d⟩ | ⟨e, d⟩ | ⟨e, d⟩ | ⟨e, d⟩ | ⟨e, d⟩ | ⟨e, d⟩ | ⟨e, d⟩ | ⟨e, d⟩ | ⟨e, d⟩ | ⟨e, d⟩ | ⟨e, d⟩ | ⟨e, d⟩ | ⟨e, d⟩ | ⟨e, d⟩ | ⟨e, d⟩ | ⟨e, d⟩ | ⟨e, d⟩ | ⟨e, d⟩ | ⟨e, d⟩ | ⟨e, d⟩ | ⟨e, d⟩ | ⟨e, d⟩ | ⟨e, d⟩ | ⟨e, d⟩ | ⟨e, d⟩ | ⟨e, -, he, hr⟩
  · rw [d] at h; exact .inl ⟨e, h⟩
  · rw [d] at h; exact .inr <| .inl ⟨e, h⟩
  · rw [d] at h; exact .inr <| .inr <| .inl ⟨e, h⟩
  · rw [d] at h; exact .inr <| .inr <| .inr <| .inl ⟨e, h⟩
  · rw [d] at h; exact .inr <| .inr <| .inr <| .inr <| .inl ⟨e, h⟩
  · rw [d] at h; exact .inr <| .inr <| .inr <| .inr <| .inr <| .inl ⟨e, h⟩
  · rw [d] at h; exact .inr <| .inr <| .inr <| .inr <| .inr <| .inr <| .inl ⟨e, h⟩
  · rw [d] at h; exact .inr <| .inr <| .inr <| .inr <| .inr <| .inr <| .inr <| .inl ⟨e, h⟩
  · rw [d] at h; exact .inr <| .inr <| .inr <| .inr <| .inr <| .inr <| .inr <| .inr <| .inl ⟨e, h⟩
  · rw [d] at h; exact .inr <| .inr <| .inr <| .inr <| .inr <| .inr <| .inr <| .inr <| .inr <| .inl ⟨e, h⟩
  · rw [d] at h; exact .inr <| .inr <| .inr <| .inr <| .inr <| .inr <| .inr <| .inr <| .inr <| .inr <| .inl ⟨e, h⟩
  · rw [d] at h; exact .inr <| .inr <| .inr <| .inr <| .inr <| .inr <| .inr <| .inr <| .inr <| .inr <| .inr <| .inl ⟨e, h⟩
  · rw [d] at h; exact .inr <| .inr <| .inr <| .inr <| .inr <| .inr <| .inr <| .inr <| .inr <| .inr <| .inr <| .inr <| .inl ⟨e, h⟩
  · rw [d] at h; exact .inr <| .inr <| .inr <| .inr <| .inr <| .inr <| .inr <| .inr <| .inr <| .inr <| .inr <| .inr <| .inr <| .inl ⟨e, h⟩
  · rw [d] at h; exact .inr <| .inr <| .inr <| .inr <| .inr <| .inr <| .inr <| .inr <| .inr <| .inr <| .inr <| .inr <| .inr <| .inr <| .inl ⟨e, h⟩
  · rw [d] at h; exact .inr <| .inr <| .inr <| .inr <| .inr <| .inr <| .inr <| .inr <| .inr <| .inr <| .inr <| .inr <| .inr <| .inr <| .inr <| .inl ⟨e, h⟩
  · rw [d] at h; exact .inr <| .inr <| .inr <| .inr <| .inr <| .inr <| .inr <| .inr <| .inr <| .inr <| .inr <| .inr <| .inr <| .inr <| .inr <| .inr <| .inl ⟨e, h⟩
  · rw [d] at h; exact .inr <| .inr <| .inr <| .inr <| .inr <| .inr <| .inr <| .inr <| .inr <| .inr <| .inr <| .inr <| .inr <| .inr <| .inr <| .inr <| .inr <| .inl ⟨e, h⟩
  · rw [d] at h; exact .inr <| .inr <| .inr <| .inr <| .inr <| .inr <| .inr <| .inr <| .inr <| .inr <| .inr <| .inr <| .inr <| .inr <| .inr <| .inr <| .inr <| .inr <| .inl ⟨e, h⟩
  · rw [d] at h; exact .inr <| .inr <| .inr <| .inr <| .inr <| .inr <| .inr <| .inr <| .inr <| .inr <| .inr <| .inr <| .inr <| .inr <| .inr <| .inr <| .inr <| .inr <| .inr <| .inl ⟨e, h⟩
  · rw [d] at h; exact .inr <| .inr <| .inr <| .inr <| .inr <| .inr <| .inr <| .inr <| .inr <| .inr <| .inr <| .inr <| .inr <| .inr <| .inr <| .inr <| .inr <| .inr <| .inr <| .inr <| .inl ⟨e, h⟩
  · rw [d] at h; exact .inr <| .inr <| .inr <| .inr <| .inr <| .inr <| .inr <| .inr <| .inr <| .inr <| .inr <| .inr <| .inr <| .inr <| .inr <| .inr <| .inr <| .inr <| .inr <| .inr <| .inr <| .inl ⟨e, h⟩
  · rw [d] at h; exact .inr <| .inr <| .inr <| .inr <| .inr <| .inr <| .inr <| .inr <| .inr <| .inr <| .inr <| .inr <| .inr <| .inr <| .inr <| .inr <| .inr <| .inr <| .inr <| .inr <| .inr <| .inr <| .inl ⟨e, h⟩
  · rw [d] at h; exact .inr <| .inr <| .inr <| .inr <| .inr <| .inr <| .inr <| .inr <| .inr <| .inr <| .inr <| .inr <| .inr <| .inr <| .inr <| .inr <| .inr <| .inr <| .inr <| .inr <| .inr <| .inr <| .inr <| .inl ⟨e, h⟩
  · rw [d] at h; exact .inr <| .inr <| .inr <| .inr <| .inr <| .inr <| .inr <| .inr <| .inr <| .inr <| .inr <| .inr <| .inr <| .inr <| .inr <| .inr <| .inr <| .inr <| .inr <| .inr <| .inr <| .inr <| .inr <| .inr <| .inl ⟨e, h⟩
  · rw [d] at h; exact .inr <| .inr <| .inr <| .inr <| .inr <| .inr <| .inr <| .inr <| .inr <| .inr <| .inr <| .inr <| .inr <| .inr <| .inr <| .inr <| .inr <| .inr <| .inr <| .inr <| .inr <| .inr <| .inr <| .inr <| .inr <| .inl ⟨e, h⟩
  · rw [d] at h; exact .inr <| .inr <| .inr <| .inr <| .inr <| .inr <| .inr <| .inr <| .inr <| .inr <| .inr <| .inr <| .inr <| .inr <| .inr <| .inr <| .inr <| .inr <| .inr <| .inr <| .inr <| .inr <| .inr <| .inr <| .inr <| .inr <| .inl ⟨e, h⟩
  · rw [d] at h; exact .inr <| .inr <| .inr <| .inr <| .inr <| .inr <| .inr <| .inr <| .inr <| .inr <| .inr <| .inr <| .inr <| .inr <| .inr <| .inr <| .inr <| .inr <| .inr <| .inr <| .inr <| .inr <| .inr <| .inr <| .inr <| .inr <| .inr <| .inl ⟨e, h⟩
  · rw [d] at h; exact .inr <| .inr <| .inr <| .inr <| .inr <| .inr <| .inr <| .inr <| .inr <| .inr <| .inr <| .inr <| .inr <| .inr <| .inr <| .inr <| .inr <| .inr <| .inr <| .inr <| .inr <| .inr <| .inr <| .inr <| .inr <| .inr <| .inr <| .inr <| .inl ⟨e, h⟩
  · rw [d] at h; exact .inr <| .inr <| .inr <| .inr <| .inr <| .inr <| .inr <| .inr <| .inr <| .inr <| .inr <| .inr <| .inr <| .inr <| .inr <| .inr <| .inr <| .inr <| .inr <| .inr <| .inr <| .inr <| .inr <| .inr <| .inr <| .inr <| .inr <| .inr <| .inr <| .inl ⟨e, h⟩
  · rw [d] at h; exact .inr <| .inr <| .inr <| .inr <| .inr <| .inr <| .inr <| .inr <| .inr <| .inr <| .inr <| .inr <| .inr <| .inr <| .inr <| .inr <| .inr <| .inr <| .inr <| .inr <| .inr <| .inr <| .inr <| .inr <| .inr <| .inr <| .inr <| .inr <| .inr <| .inr <| .inl ⟨e, h⟩
  · rw [d] at h; exact .inr <| .inr <| .inr <| .inr <| .inr <| .inr <| .inr <| .inr <| .inr <| .inr <| .inr <| .inr <| .inr <| .inr <| .inr <| .inr <| .inr <| .inr <| .inr <| .inr <| .inr <| .inr <| .inr <| .inr <| .inr <| .inr <| .inr <| .inr <| .inr <| .inr <| .inr <| .inl ⟨e, h⟩
  · rw [d] at h; exact .inr <| .inr <| .inr <| .inr <| .inr <| .inr <| .inr <| .inr <| .inr <| .inr <| .inr <| .inr <| .inr <| .inr <| .inr <| .inr <| .inr <| .inr <| .inr <| .inr <| .inr <| .inr <| .inr <| .inr <| .inr <| .inr <| .inr <| .inr <| .inr <| .inr <| .inr <| .inr <| .inl ⟨e, h⟩
  · rw [d] at h; exact .inr <| .inr <| .inr <| .inr <| .inr <| .inr <| .inr <| .inr <| .inr <| .inr <| .inr <| .inr <| .inr <| .inr <| .inr <| .inr <| .inr <| .inr <| .inr <| .inr <| .inr <| .inr <| .inr <| .inr <| .inr <| .inr <| .inr <| .inr <| .inr <| .inr <| .inr <| .inr <| .inr <| .inl ⟨e, h⟩
  · rw [d] at h; exact .inr <| .inr <| .inr <| .inr <| .inr <| .inr <| .inr <| .inr <| .inr <| .inr <| .inr <| .inr <| .inr <| .inr <| .inr <| .inr <| .inr <| .inr <| .inr <| .inr <| .inr <| .inr <| .inr <| .inr <| .inr <| .inr <| .inr <| .inr <| .inr <| .inr <| .inr <| .inr <| .inr <| .inr <| .inl ⟨e, h⟩
  · rw [d] at h; exact .inr <| .inr <| .inr <| .inr <| .inr <| .inr <| .inr <| .inr <| .inr <| .inr <| .inr <| .inr <| .inr <| .inr <| .inr <| .inr <| .inr <| .inr <| .inr <| .inr <| .inr <| .inr <| .inr <| .inr <| .inr <| .inr <| .inr <| .inr <| .inr <| .inr <| .inr <| .inr <| .inr <| .inr <| .inr <| .inl ⟨e, h⟩
  · rw [d] at h; exact .inr <| .inr <| .inr <| .inr <| .inr <| .inr <| .inr <| .inr <| .inr <| .inr <| .inr <| .inr <| .inr <| .inr <| .inr <| .inr <| .inr <| .inr <| .inr <| .inr <| .inr <| .inr <| .inr <| .inr <| .inr <| .inr <| .inr <| .inr <| .inr <| .inr <| .inr <| .inr <| .inr <| .inr <| .inr <| .inr <| .inl ⟨e, h⟩
  · rw [d] at h; exact .inr <| .inr <| .inr <| .inr <| .inr <| .inr <| .inr <| .inr <| .inr <| .inr <| .inr <| .inr <| .inr <| .inr <| .inr <| .inr <| .inr <| .inr <| .inr <| .inr <| .inr <| .inr <| .inr <| .inr <| .inr <| .inr <| .inr <| .inr <| .inr <| .inr <| .inr <| .inr <| .inr <| .inr <| .inr <| .inr <| .inr <| .inl ⟨e, h⟩
  · rw [d] at h; exact .inr <| .inr <| .inr <| .inr <| .inr <| .inr <| .inr <| .inr <| .inr <| .inr <| .inr <| .inr <| .inr <| .inr <| .inr <| .inr <| .inr <| .inr <| .inr <| .inr <| .inr <| .inr <| .inr <| .inr <| .inr <| .inr <| .inr <| .inr <| .inr <| .inr <| .inr <| .inr <| .inr <| .inr <| .inr <| .inr <| .inr <| .inr <| .inl ⟨e, h⟩
  · rw [exec_reserved he hr] at h; exact .inr <| .inr <| .inr <| .inr <| .inr <| .inr <| .inr <| .inr <| .inr <| .inr <| .inr <| .inr <| .inr <| .inr <| .inr <| .inr <| .inr <| .inr <| .inr <| .inr <| .inr <| .inr <| .inr <| .inr <| .inr <| .inr <| .inr <| .inr <| .inr <| .inr <| .inr <| .inr <| .inr <| .inr <| .inr <| .inr <| .inr <| .inr <| .inr ⟨e, (Host.Outcome.next.inj h).symm⟩

/-- Every row answers a next state. -/
theorem exec_next (i : Instr) (s : State) : ∃ t, exec i s = .next t := by
  cases i <;> exact ⟨_, rfl⟩

/-- No step is refused. -/
theorem step_not_refused (s : State) (r : Refusal) : step s ≠ .refused r := by
  cases hf : s.fault with
  | some f => rw [step_of_fault hf]; exact nofun
  | none =>
    rw [step_of_none hf]
    obtain ⟨t, ht⟩ := exec_next (decodeStep s.step) s
    rw [ht]; exact nofun

/-- The row at the index a row is encoded as is that row. -/
theorem decodeStep_of_encode {i : Instr} {x : StepIx} (h : encode i = .step x) : decodeStep x = i := by
  cases i with
  | reserved40To47 y => simp only [encode, Code.step.injEq] at h; subst h; revert y; decide
  | reserved48To63 y => simp only [encode, Code.step.injEq] at h; subst h; revert y; decide
  | _ => simp only [encode, Code.step.injEq, reduceCtorEq] at h <;> subst h <;> rfl

/-- A step before a run is a run. -/
theorem Reaches.head {s t u : State} (hs : step s = .next t) (h : Reaches t u) : Reaches s u := by
  induction h with
  | here => exact .next .here hs
  | next _ hn ih => exact .next ih hn

/-- What `n` steps answer is reached. -/
theorem Reaches.of_run : ∀ (n : Nat) {s t : State}, run n s = .next t → Reaches s t
  | 0, s, t, h => by injection h with h; subst h; exact .here
  | n + 1, s, t, h => by
    unfold run at h
    split at h
    · rename_i u hu; exact .head hu (Reaches.of_run n h)
    · exact nomatch h
    · exact nomatch h

/-- An induction over a run: what holds at its start and is kept by every step holds of every state it reaches. -/
theorem Reaches.keeps {p : State → Prop} {s t : State} (h : Reaches s t) (h0 : p s)
    (hs : ∀ u v, p u → step u = .next v → p v) : p t := by
  induction h with
  | here => exact h0
  | next _ hn ih => exact hs _ _ ih hn

end Sys2Proof.Machine
end

