-- ==== Sys2Proof/Laws/Views.lean ====
section
/-! SUPPORT. The derived views over a trace that grows, the scripted answers of different addresses, and the arithmetic of
bytes and of words whose low four bits are 8. -/

namespace Sys2Proof

/-- Zero extension as a concatenation (40_mmio_primitives.md R123). -/
theorem zext32_eq (b : Byte) : zext32 b = 0#24 ++ b := by
  apply BitVec.eq_of_toNat_eq
  have := b.isLt
  rw [BitVec.toNat_append]
  simp only [zext32, BitVec.toNat_setWidth, BitVec.toNat_ofNat]
  simp
  omega

/-- Bits 7:0 as a bit field (40_mmio_primitives.md R125). -/
theorem low8_eq (v : Word) : low8 v = v.extractLsb' 0 8 := by
  apply BitVec.eq_of_toNat_eq
  simp [low8]

/-- A 28-bit field above the channel number, as a number. -/
theorem field_append_eight_toNat (a : BitVec 28) : (a ++ 8#4 : BitVec 32).toNat = a.toNat * 16 + 8 := by
  rw [BitVec.toNat_append, ← Nat.shiftLeft_add_eq_or_of_lt (by decide), Nat.shiftLeft_eq]
  rfl

namespace Machine

theorem writesAt_append (a : Word) (x y : List Event) : writesAt a (x ++ y) = writesAt a x ++ writesAt a y := by
  induction x with
  | nil => rfl
  | cons e l ih =>
    cases e <;> simp only [List.cons_append, writesAt, ih]
    split <;> simp

theorem readsAt_append (a : Word) (x y : List Event) : readsAt a (x ++ y) = readsAt a x ++ readsAt a y := by
  induction x with
  | nil => rfl
  | cons e l ih =>
    cases e <;> simp only [List.cons_append, readsAt, ih]
    split <;> simp

theorem busWrites_append (x y : List Event) : busWrites (x ++ y) = busWrites x ++ busWrites y := by
  induction x with
  | nil => rfl
  | cons e l ih => cases e <;> simp [busWrites, ih]

/-- The writes at an address are among the bus writes. -/
theorem writesAt_eq_filter (a : Word) (l : List Event) :
    writesAt a l = ((busWrites l).filter (fun x => x.1 == a)).map (·.2) := by
  induction l with
  | nil => rfl
  | cons e l ih =>
    cases e <;> simp only [writesAt, busWrites, ih]
    rename_i x _
    by_cases h : x = a <;> simp [h]

/-- A read of one address leaves the answers of another in place. -/
theorem Script.answer_pop_ne (sc : Script) {a b : Word} (h : a ≠ b) :
    Script.answer (Script.pop sc a) b = Script.answer sc b := by
  induction sc with
  | nil => rfl
  | cons e l ih =>
    by_cases ha : e.addr = a
    · simp [Script.pop, Script.answer, ha, h]
    · simp only [Script.pop, Script.answer, ha, if_false, ih]

/-- Reads of two addresses take their answers in either order. -/
theorem Script.pop_comm (sc : Script) {a b : Word} (h : a ≠ b) :
    Script.pop (Script.pop sc a) b = Script.pop (Script.pop sc b) a := by
  induction sc with
  | nil => rfl
  | cons e l ih =>
    by_cases ha : e.addr = a
    · simp [Script.pop, ha, h]
    · by_cases hb : e.addr = b
      · simp [Script.pop, hb, Ne.symm h]
      · simp [Script.pop, ha, hb, ih]

end Machine

end Sys2Proof
end

