-- ==== Sys2Proof/Laws/Liveness.lean ====
section
/-! SUPPORT. Waiting (70_reset_and_hazards.md R272): a poll under its premise is left, the premises hold along a run, and an
environment that always gives one good answer meets them. -/

namespace Sys2Proof.Machine

theorem run_succ {s t : State} (h : step s = .next t) (n : Nat) : run (n + 1) s = run n t := by simp [run, h]

/-- A run in two parts. -/
theorem run_add (n : Nat) : ∀ {m : Nat} {s t : State}, run m s = .next t → run (m + n) s = run n t
  | 0, s, t, h => by
    injection h with h
    rw [Nat.zero_add, h]
  | m + 1, s, t, h => by
    rw [show m + 1 + n = m + n + 1 by omega]
    simp only [run] at h ⊢
    split at h
    · exact run_add n h
    · exact nomatch h
    · exact nomatch h

/-- One step more. -/
theorem run_snoc {n : Nat} {s t u : State} (h : run n s = .next t) (hs : step t = .next u) : run (n + 1) s = .next u := by
  rw [run_add 1 h, run_succ hs]; rfl

theorem ReadsAt.of_run {s t : State} {m : Nat} (h : run m s = .next t) (n : Nat) (reg : Reg) (v : Word) :
    ReadsAt s (m + n) reg v ↔ ReadsAt t n reg v := by
  simp only [ReadsAt, run_add n h]

/-- What is so of the endless reads of a run is so of the rest of it. -/
theorem EventuallyAnswers.of_run {s t : State} {m : Nat} (h : run m s = .next t) {reg : Reg} {good : Word → Prop}
    (hs : EventuallyAnswers s reg good) : EventuallyAnswers t reg good := by
  intro ht k
  obtain ⟨n, v, hn, hr, hv⟩ := hs (fun j => by
    obtain ⟨n, v, hn, hr⟩ := ht j
    exact ⟨m + n, v, by omega, (ReadsAt.of_run h n reg v).2 hr⟩) (m + k)
  obtain ⟨i, rfl⟩ : ∃ i, n = m + i := ⟨n - m, by omega⟩
  exact ⟨i, v, by omega, (ReadsAt.of_run h i reg v).1 hr, hv⟩

/-- The premises hold of the rest of a run. -/
theorem WaitsEnd.of_run {s t : State} {m : Nat} (h : run m s = .next t) (hc : t.cfg = s.cfg) (hs : WaitsEnd s) : WaitsEnd t := by
  constructor <;> simp only [EventuallyClear, EventuallyMatches, hc]
  · exact hs.txReady.of_run h
  · exact hs.mailboxNotFull.of_run h
  · exact hs.mailboxNotEmpty.of_run h
  · exact hs.matched.of_run h

/-- The state after `n` rounds of a poll that has not been left: `rd`, the trace and the answers pending have changed. -/
def Waiting (s t : State) : Prop :=
  ∃ rd trace script, t = { s with rd := rd, trace := trace, script := script }

/-- One more round of a poll, from any state of the wait. -/
theorem step_of_waiting {s t : State} {reg : Reg} {mask : Const}
    (he : ∀ x, exec (decodeStep s.step) x = opWtc reg (mask.eval x.cfg.params) x) (hf : s.fault = none)
    (hm : s.cfg.isMapped (s.cfg.addr reg) = true) (hw : Waiting s t) :
    step t = .next { afterRead t reg with
      step := if t.envAnswer (t.cfg.addr reg) &&& mask.eval s.cfg.params = 0#32 then s.step + 1#6 else s.step } := by
  obtain ⟨hx, hc, hft⟩ : t.step = s.step ∧ t.cfg = s.cfg ∧ t.fault = none := by
    obtain ⟨_, _, _, rfl⟩ := hw; exact ⟨rfl, rfl, hf⟩
  rw [step_of_none hft, hx, he, opWtc_eq, hc, if_pos hm, hx]

/-- A poll that is read clear in every infinite sequence of its reads is left: some number of steps later the step index
is the next one, and only `rd`, the trace and the pending answers have changed. -/
theorem poll_left {s : State} {reg : Reg} {mask : Const}
    (he : ∀ x, exec (decodeStep s.step) x = opWtc reg (mask.eval x.cfg.params) x) (hf : s.fault = none)
    (hm : s.cfg.isMapped (s.cfg.addr reg) = true) (hc : EventuallyClear s reg (mask.eval s.cfg.params)) :
    ∃ n u, Waiting s u ∧ run (n + 1) s = .next { u with step := s.step + 1#6 } := by
  by_contra hno
  have all : ∀ n, ∃ t, run n s = .next t ∧ Waiting s t := by
    intro n
    induction n with
    | zero => exact ⟨s, rfl, s.rd, s.trace, s.script, rfl⟩
    | succ n ih =>
      obtain ⟨t, hr, hw⟩ := ih
      have h1 := run_snoc hr (step_of_waiting he hf hm hw)
      obtain ⟨r, tr, sc, rfl⟩ := hw
      split at h1
      · exact absurd ⟨n, _, ⟨_, _, _, rfl⟩, h1⟩ hno
      · exact ⟨_, h1, _, _, _, rfl⟩
  have reads : ∀ n, ∃ t, run n s = .next t ∧ Waiting s t ∧ ReadsAt s n reg (t.envAnswer (t.cfg.addr reg)) := by
    intro n
    obtain ⟨t, hr, hw⟩ := all n
    exact ⟨t, hr, hw, t, _, hr, step_of_waiting he hf hm hw, rfl⟩
  obtain ⟨n, v, -, ⟨t, u, hr, hs, ht⟩, hv⟩ := hc (fun m => by
    obtain ⟨t, -, -, h⟩ := reads m
    exact ⟨m, _, Nat.le_refl m, h⟩) 0
  obtain ⟨t', hr', hw⟩ := all n
  obtain rfl := Host.Outcome.next.inj (hr'.symm.trans hr)
  have hu := Host.Outcome.next.inj (hs.symm.trans (step_of_waiting he hf hm hw))
  have hans : t'.envAnswer (t'.cfg.addr reg) = v := by
    rw [hu] at ht
    simpa using ht
  rw [hans, if_pos hv] at hu
  have h2 := run_snoc hr hs
  rw [hu] at h2
  obtain ⟨r, tr, sc, rfl⟩ := hw
  exact hno ⟨n, _, ⟨_, _, _, rfl⟩, h2⟩

/-! ## An environment that always gives one answer -/

/-- A read of any address leaves an answer that is given for ever. -/
theorem AlwaysAnswers.pop {sc : Script} {a w : Word} (h : AlwaysAnswers sc a w) (b : Word) :
    AlwaysAnswers (Script.pop sc b) a w := by
  by_cases hb : b = a
  · subst hb; rw [h.2]; exact h
  · exact ⟨by rw [Script.answer_pop_ne sc hb]; exact h.1, by rw [Script.pop_comm sc hb, h.2]⟩

/-- What a micro-operation does to the pending answers: it takes at most one read's; and the word of the read it records is
the environment's answer. -/
theorem runMicroOp_answers {op : MicroOp} {s t : State} (h : runMicroOp op s = .next t) :
    t.cfg = s.cfg ∧ (t.script = s.script ∨ ∃ b, t.script = Script.pop s.script b) ∧
      ∀ a v, t.trace = s.trace ++ [.busR a v] → v = s.envAnswer a := by
  cases op <;> simp only [runMicroOp, opWr_eq, opWrb_eq, opWrc_eq, opRdb_eq, opDly_eq, opWtc_eq, opLcw_eq, opRdm_eq,
    opBnp_eq, opLdc_eq, opLdg_eq, opJmp_eq, opStw_eq, Host.Outcome.next.injEq] at h
  all_goals subst h
  all_goals (try split)
  all_goals (try split)
  all_goals refine ⟨by simp, by simp, fun a v ht => ?_⟩
  all_goals simp at ht
  all_goals exact ht.2.symm.trans (congrArg s.envAnswer ht.1)

/-- A step is a micro-operation, or raises `F_STEP`. -/
theorem step_op {s t : State} (h : step s = .next t) :
    (∃ op, runMicroOp op s = .next t) ∨ t = s.raise (.fStep s.step) := by
  obtain ⟨-, h⟩ := step_cases h
  iterate 39
    rcases h with ⟨-, h⟩ | h
    · left
      first
        | exact ⟨.wr _ (.lit _), h⟩ | exact ⟨.wrb _, h⟩ | exact ⟨.wrc _, h⟩ | exact ⟨.rdb _, h⟩ | exact ⟨.dly (.lit _), h⟩
        | exact ⟨.wtc _ (.lit _), h⟩ | exact ⟨.stw _ (.lit _), h⟩ | exact ⟨.lcw, h⟩ | exact ⟨.rdm _ _, h⟩
        | exact ⟨.bnp _, h⟩ | exact ⟨.ldc _, h⟩ | exact ⟨.ldg _, h⟩ | exact ⟨.jmp _, h⟩
  exact .inr h.2

/-- A step leaves an answer that is given for ever, and if it reads that address it is given it. -/
theorem AlwaysAnswers.step {s t : State} (h : step s = .next t) {reg : Reg} {w : Word}
    (ha : AlwaysAnswers s.script (s.cfg.addr reg) w) : AlwaysAnswers t.script (t.cfg.addr reg) w ∧
      ∀ v, t.trace = s.trace ++ [.busR (s.cfg.addr reg) v] → v = w := by
  rcases step_op h with ⟨op, h⟩ | rfl
  · obtain ⟨hc, hs, hv⟩ := runMicroOp_answers h
    rw [hc]
    refine ⟨?_, fun v ht => (hv _ v ht).trans (by simp [State.envAnswer, ha.1])⟩
    rcases hs with hs | ⟨b, hs⟩ <;> rw [hs]
    · exact ha
    · exact ha.pop b
  · exact ⟨ha, fun v ht => absurd (congrArg List.length ht) (by simp)⟩

/-- An environment that always gives a good answer gives one in every infinite sequence of reads. -/
theorem EventuallyAnswers.of_always {reg : Reg} {w : Word} {good : Word → Prop} (hg : good w) {s : State}
    (ha : AlwaysAnswers s.script (s.cfg.addr reg) w) : EventuallyAnswers s reg good := by
  have along : ∀ n {s t : State}, AlwaysAnswers s.script (s.cfg.addr reg) w → run n s = .next t →
      AlwaysAnswers t.script (t.cfg.addr reg) w := by
    intro n
    induction n with
    | zero => intro s t ha h; injection h with h; subst h; exact ha
    | succ n ih =>
      intro s t ha h
      unfold run at h
      split at h
      · rename_i u hu; exact ih (ha.step hu).1 h
      · exact nomatch h
      · exact nomatch h
  intro hr m
  obtain ⟨n, v, hn, t, u, ht, hu, he⟩ := hr m
  refine ⟨n, v, hn, ⟨t, u, ht, hu, he⟩, ?_⟩
  rw [((along n ha ht).step hu).2 v he]
  exact hg

end Sys2Proof.Machine
end

