-- ==== Sys2Proof/Laws/PerInstr.lean ====
section
/-! SUPPORT. Per-instruction facts: every row of the opcode table is well formed, whatever its free bits (30_encoding.md R92,
R93). -/

namespace Sys2Proof.Laws.RowWellFormed

/-- The operands of the row's entry are such as its format allows; a row without an entry has none. -/
def Statement (i : Instr) : Prop := i.wf = true

theorem sCrOff : Statement .sCrOff := rfl
theorem sPudClr : Statement .sPudClr := rfl
theorem sDlyA : Statement .sDlyA := rfl
theorem sPudclkSet : Statement .sPudclkSet := rfl
theorem sDlyB : Statement .sDlyB := rfl
theorem sPudclkClr : Statement .sPudclkClr := rfl
theorem sIcr : Statement .sIcr := rfl
theorem sNeg : Statement .sNeg := rfl
theorem sMbW0 : Statement .sMbW0 := rfl
theorem sMbW1 : Statement .sMbW1 := rfl
theorem sMbW2 : Statement .sMbW2 := rfl
theorem sMbW3 : Statement .sMbW3 := rfl
theorem sMbW4 : Statement .sMbW4 := rfl
theorem sMbW5 : Statement .sMbW5 := rfl
theorem sMbW6 : Statement .sMbW6 := rfl
theorem sMbW7 : Statement .sMbW7 := rfl
theorem sMbW8 : Statement .sMbW8 := rfl
theorem sMbCw : Statement .sMbCw := rfl
theorem sMbWfull : Statement .sMbWfull := rfl
theorem sMbSend : Statement .sMbSend := rfl
theorem sMbWempty : Statement .sMbWempty := rfl
theorem sMbRecv : Statement .sMbRecv := rfl
theorem sIbrd : Statement .sIbrd := rfl
theorem sFbrd : Statement .sFbrd := rfl
theorem sLcrh : Statement .sLcrh := rfl
theorem sImsc : Statement .sImsc := rfl
theorem sCrOn : Statement .sCrOn := rfl
theorem sGrNext : Statement .sGrNext := rfl
theorem sGrWtx : Statement .sGrWtx := rfl
theorem sGrSend : Statement .sGrSend := rfl
theorem sGrLoop : Statement .sGrLoop := rfl
theorem sEcWrx : Statement .sEcWrx := rfl
theorem sEcRecv : Statement .sEcRecv := rfl
theorem sEcWtx1 : Statement .sEcWtx1 := rfl
theorem sEcSend1 : Statement .sEcSend1 := rfl
theorem sEcNl : Statement .sEcNl := rfl
theorem sEcWtx2 : Statement .sEcWtx2 := rfl
theorem sEcSend2 : Statement .sEcSend2 := rfl
theorem sEcLoop : Statement .sEcLoop := rfl
theorem reserved39 : Statement .reserved39 := rfl
theorem reserved40To47 (x : BitVec 3) : Statement (.reserved40To47 x) := rfl
theorem reserved48To63 (x : BitVec 4) : Statement (.reserved48To63 x) := rfl
theorem channelWord (a : BitVec 28) : Statement (.channelWord a) := rfl
theorem mboxWord0 : Statement .mboxWord0 := rfl
theorem mboxWord1 : Statement .mboxWord1 := rfl
theorem mboxWord2 : Statement .mboxWord2 := rfl
theorem mboxWord3 : Statement .mboxWord3 := rfl
theorem mboxWord4 : Statement .mboxWord4 := rfl
theorem mboxWord5 : Statement .mboxWord5 := rfl
theorem mboxWord6 (r : Word) : Statement (.mboxWord6 r) := rfl
theorem mboxWord7 : Statement .mboxWord7 := rfl
theorem mboxWord8 : Statement .mboxWord8 := rfl

end Sys2Proof.Laws.RowWellFormed
end

