-- ==== Sys2Proof/Machine/Assembly.lean ====
section
/-! DEFINITION. The written form of a micro-operation, `KIND operand, operand` (30_encoding.md R92, R93, R112): registers and
parameters by name, targets by step index. -/

namespace Sys2Proof

/-- The kind of a micro-operation (30_encoding.md R92). -/
def MicroOp.kind : MicroOp → String
  | .wr _ _ => "WR"
  | .wrb _ => "WRB"
  | .wrc _ => "WRC"
  | .rdb _ => "RDB"
  | .dly _ => "DLY"
  | .wtc _ _ => "WTC"
  | .stw _ _ => "STW"
  | .lcw => "LCW"
  | .rdm _ _ => "RDM"
  | .bnp _ => "BNP"
  | .ldc _ => "LDC"
  | .ldg _ => "LDG"
  | .jmp _ => "JMP"

/-- The operand format of a kind (30_encoding.md R93). -/
def MicroOp.format : MicroOp → String
  | .wr _ _ => "RV"
  | .wrb _ => "R"
  | .wrc _ => "R"
  | .rdb _ => "R"
  | .dly _ => "N"
  | .wtc _ _ => "RM"
  | .stw _ _ => "IV"
  | .lcw => "Z"
  | .rdm _ _ => "RT"
  | .bnp _ => "T"
  | .ldc _ => "K"
  | .ldg _ => "T"
  | .jmp _ => "T"

/-- The name of a register (10_state.md R31). -/
def Reg.name : Reg → String
  | .gppud => "GPPUD"
  | .gppudclk0 => "GPPUDCLK0"
  | .uart0Dr => "UART0_DR"
  | .uart0Fr => "UART0_FR"
  | .uart0Ibrd => "UART0_IBRD"
  | .uart0Fbrd => "UART0_FBRD"
  | .uart0Lcrh => "UART0_LCRH"
  | .uart0Cr => "UART0_CR"
  | .uart0Imsc => "UART0_IMSC"
  | .uart0Icr => "UART0_ICR"
  | .mboxRead => "MBOX_READ"
  | .mboxStatus => "MBOX_STATUS"
  | .mboxWrite => "MBOX_WRITE"

/-- The name of a parameter (00_scope.md R11, R12). -/
def Param.name : Param → String
  | .pudclkPins => "PUDCLK_PINS"
  | .icrAll => "ICR_ALL"
  | .ibrdValue => "IBRD_VALUE"
  | .fbrdValue => "FBRD_VALUE"
  | .lcrhValue => "LCRH_VALUE"
  | .imscValue => "IMSC_VALUE"
  | .crValue => "CR_VALUE"
  | .uartClockHz => "UART_CLOCK_HZ"
  | .frTxff => "FR_TXFF"
  | .frRxfe => "FR_RXFE"
  | .mboxFull => "MBOX_FULL"
  | .mboxEmpty => "MBOX_EMPTY"

/-- One digit, 0 to 15. -/
def digit (n : Nat) : Char := ("0123456789ABCDEF".toList).getD n '0'

/-- A number in base `b`, at least `width` digits, with fuel for the digits. -/
def digitsIn (b : Nat) : Nat → Nat → Nat → List Char
  | 0, _, _ => []
  | fuel + 1, width, n =>
    if n = 0 ∧ width = 0 then [] else digitsIn b fuel (width - 1) (n / b) ++ [digit (n % b)]

/-- A number in decimal. -/
def decimal (n : Nat) : String := String.ofList (digitsIn 10 (n + 1) 1 n)

/-- A word of `width` hexadecimal digits. -/
def hexLiteral (width n : Nat) : String := String.ofList ('0' :: 'x' :: digitsIn 16 width width n)

/-- A constant: its name, or the literal in hexadecimal (R112 fixes no number base; DESIGN CHOICE, log 15). -/
def Const.text : Const → String
  | .lit w => hexLiteral 8 w.toNat
  | .param p => p.name

/-- A count. -/
def Count.text : Count → String
  | .lit n => decimal n
  | .settleCount => "SETTLE_COUNT"

/-- The operands in the order of their format (30_encoding.md R93). -/
def MicroOp.operands : MicroOp → List String
  | .wr reg value => [reg.name, value.text]
  | .wrb reg => [reg.name]
  | .wrc reg => [reg.name]
  | .rdb reg => [reg.name]
  | .dly count => [count.text]
  | .wtc reg mask => [reg.name, mask.text]
  | .stw index value => [decimal index, value.text]
  | .lcw => []
  | .rdm reg target => [reg.name, decimal target.toNat]
  | .bnp target => [decimal target.toNat]
  | .ldc byte => [hexLiteral 2 byte.toNat]
  | .ldg target => [decimal target.toNat]
  | .jmp target => [decimal target.toNat]

/-- `KIND operand, operand` (30_encoding.md R112). -/
def MicroOp.text (op : MicroOp) : String :=
  match op.operands with
  | [] => op.kind
  | first :: rest => rest.foldl (fun s o => s ++ ", " ++ o) (op.kind ++ " " ++ first)

end Sys2Proof
end

