-- ==== Sys2Proof/Tests/Slice0.lean ====
section
/-! SUPPORT. Tests. The expected results are those of spec/95_test_vectors.md, whose vectors are named; the words decoded are
written out from the tables of 30_encoding.md. After them, one witness for the hypotheses of each statement that has any. -/

namespace Sys2Proof.Tests

open Sys2Proof Sys2Proof.Machine

/-! ## Configurations and states the vectors start from -/

/-- `CFG_GK` (95 V01), with a greeting of the caller's and the given addresses mapped. -/
def gkParams (greeting : List Byte) (mapped : List AddrRange) : Params where
  offGppud := 0x00200094#32
  offGppudclk0 := 0x00200098#32
  offUart0Dr := 0x00201000#32
  offUart0Fr := 0x00201018#32
  offUart0Ibrd := 0x00201024#32
  offUart0Fbrd := 0x00201028#32
  offUart0Lcrh := 0x0020102C#32
  offUart0Cr := 0x00201030#32
  offUart0Imsc := 0x00201038#32
  offUart0Icr := 0x00201044#32
  offMboxRead := 0x0000B880#32
  offMboxStatus := 0x0000B898#32
  offMboxWrite := 0x0000B8A0#32
  frTxff := 0x00000020#32
  frRxfe := 0x00000010#32
  mboxFull := 0x80000000#32
  mboxEmpty := 0x40000000#32
  pudclkPins := 0x0000C000#32
  icrAll := 0x000007FF#32
  ibrdValue := 0x00000001#32
  fbrdValue := 0x00000028#32
  lcrhValue := 0x00000070#32
  imscValue := 0x000007F2#32
  crValue := 0x00000301#32
  settleCount := 150
  uartClockHz := 0x002DC6C0#32
  greeting := greeting
  mboxBufAddr := 0x00001000#32
  mapped := mapped

def everywhere : List AddrRange := [⟨0#32, 0xFFFFFFFF#32⟩]
def hi : List Byte := [0x48#8, 0x69#8]
def board (negotiate : Bool) : BoardProfile := ⟨0x3F000000#32, negotiate⟩

/-- `CFG_GK` for a board that negotiates its clock. -/
def gk : Cfg := ⟨board true, gkParams hi everywhere, by decide⟩
/-- `CFG_GK` for a board that does not. -/
def gkPlain : Cfg := ⟨board false, gkParams hi everywhere, by decide⟩
/-- The same with an empty greeting. -/
def gkMute : Cfg := ⟨board false, gkParams [] everywhere, by decide⟩
/-- `CFG_GK` with nothing mapped. -/
def gkBare : Cfg := ⟨board true, gkParams hi [], by decide⟩

/-- A state at a step index, nothing written yet. -/
def stateAt (c : Cfg) (n : StepIx) (sc : Script := []) : State := { State.initial c sc with step := n }
/-- With a byte in `ch`. -/
def holdingCh (s : State) (b : Byte) : State := { s with ch := .holds b }
/-- With a word in `cw`. -/
def holdingCw (s : State) (w : Word) : State := { s with cw := .holds w }
/-- At step 27 with `si` bytes of the greeting taken. -/
def atGreetingByte (n : Nat) : State := { stateAt gk 27#6 with si := n }
/-- One answer, given for ever. -/
def always (a w : Word) : EnvQueue := ⟨a, [], some w⟩

def fr : Word := 0x3F201018#32
def dr : Word := 0x3F201000#32
def mboxRead : Word := 0x3F00B880#32
def mboxStatus : Word := 0x3F00B898#32

/-- What a vector shows of a step: the next index, the events appended, the fault. -/
def seen (s : State) : Option (StepIx × List Event × Option Fault) :=
  match step s with
  | .next t => some (t.step, t.trace.drop s.trace.length, t.fault)
  | _ => none

/-- What a vector shows of the working registers after a step. -/
def latches (s : State) : Option (Latch 32 × Latch 8 × Latch 32 × Nat) :=
  match step s with
  | .next t => some (t.rd, t.ch, t.cw, t.si)
  | _ => none

/-- The bytes of word `i` of the buffer after a step, lowest address first. -/
def stored (s : State) (i : Nat) : Option (List (Option Byte)) :=
  match step s with
  | .next t => some ((List.range 4).map fun j => t.mem.read (0x1000 + 4 * i + j))
  | _ => none

/-! ## The written form -/

/-- The column `assembly` of spec/opcode_table.json, one entry of each form (30_encoding.md R112). -/
theorem test_text : (entriesOf [.sPudclkSet, .sDlyA, .sMbW2, .sMbCw, .sMbWfull, .sMbRecv, .sEcNl, .sGrNext]).map MicroOp.text =
    ["WR GPPUDCLK0, PUDCLK_PINS", "DLY SETTLE_COUNT", "STW 2, 0x00038002", "LCW", "WTC MBOX_STATUS, MBOX_FULL",
     "RDM MBOX_READ, 20", "LDC 0x0A", "LDG 31"] := by decide

/-! ## Well-formedness refuses -/

/-- A target beyond 38 (30_encoding.md R92). -/
theorem test_wf_target : (MicroOp.jmp 39#6).wf = false ∧ (MicroOp.bnp 63#6).wf = false ∧ (MicroOp.ldg 40#6).wf = false
    ∧ (MicroOp.rdm .mboxRead 39#6).wf = false ∧ (MicroOp.jmp 38#6).wf = true := by decide

/-- A buffer index beyond 8 (30_encoding.md R93, 42_mailbox.md R142). -/
theorem test_wf_index : (MicroOp.stw 9 (.lit 0#32)).wf = false ∧ (MicroOp.stw 8 (.lit 0#32)).wf = true := by decide

/-- A mask with no bit, with two, or a parameter that is no mask (30_encoding.md R93). -/
theorem test_wf_mask : (MicroOp.wtc .uart0Fr (.lit 0#32)).wf = false ∧ (MicroOp.wtc .uart0Fr (.lit 0x30#32)).wf = false
    ∧ (MicroOp.wtc .uart0Fr (.param .icrAll)).wf = false ∧ (MicroOp.wtc .uart0Fr (.lit 0x20#32)).wf = true := by decide

/-- 95 T-CFG row 2. -/
theorem test_cfg_align : cfgCheck (board true) { gkParams hi everywhere with mboxBufAddr := 0x00001004#32 }
    = some (.align 0x00001004#32) := by decide

/-- 95 T-CFG rows 3, 4 and 5. -/
theorem test_cfg_c :
    cfgCheck (board true) { gkParams hi everywhere with offUart0Fr := 0x00201019#32 } = some (.clause .c) ∧
    cfgCheck ⟨0x3F000002#32, true⟩ (gkParams hi everywhere) = some (.clause .c) ∧
    cfgCheck (board true) { gkParams hi everywhere with offUart0Fr := 0x00201000#32 } = some (.clause .c) := by decide

/-- 95 T-CFG row 6 and vector T42-18. -/
theorem test_cfg_d : cfgCheck ⟨0xFFF00000#32, true⟩ (gkParams hi everywhere) = some (.clause .d) ∧
    cfgCheck (board true) { gkParams hi everywhere with mboxBufAddr := 0xFFFFFFE0#32 } = some (.clause .d) := by decide

/-- 95 T-CFG rows 7, 8 and 9. -/
theorem test_cfg_e :
    cfgCheck (board true) { gkParams hi everywhere with frTxff := 0x30#32 } = some (.clause .e) ∧
    cfgCheck (board true) { gkParams hi everywhere with frTxff := 0#32 } = some (.clause .e) ∧
    cfgCheck (board true) { gkParams hi everywhere with frTxff := 0x10#32 } = some (.clause .e) := by decide

/-- 95 T-CFG rows 10 and 11. -/
theorem test_cfg_f :
    cfgCheck (board true) { gkParams hi everywhere with pudclkPins := 0x4000#32 } = some (.clause .f) ∧
    cfgCheck (board true) { gkParams hi everywhere with crValue := 0x300#32 } = some (.clause .f) := by decide

/-- 95 T-CFG rows 12 and 13, and the accepted corner below the registers. -/
theorem test_cfg_g :
    cfgCheck (board true) { gkParams hi everywhere with mboxBufAddr := 0x3F201000#32 } = some (.clause .g) ∧
    cfgCheck (board true) { gkParams hi everywhere with mboxBufAddr := 0x3F200FE0#32 } = some (.clause .g) ∧
    cfgCheck (board true) { gkParams hi everywhere with mboxBufAddr := 0x3F200FD0#32 } = none := by decide

/-- 95 T-CFG rows 1, 14 and 15: no profile, or two, is reported first; alignment before the mask. -/
theorem test_boot_order :
    boot [] (gkParams hi everywhere) [] = .refused (.fConfig .a) ∧
    boot [board true, board false] { gkParams hi everywhere with mboxBufAddr := 0x1004#32 } []
      = .refused (.fConfig .a) ∧
    boot [board true] { gkParams hi everywhere with mboxBufAddr := 0x1004#32, frTxff := 0x30#32 } []
      = .refused (.fAlign 0x1004#32) := ⟨rfl, rfl, rfl⟩

/-! ## Decoding -/

/-- Step indices of 30_encoding.md R100, one or two of each family, and the reserved patterns of R110. -/
theorem test_decode_steps :
    decodeTableWord 6 0b000101 = some .sPudclkClr ∧ decodeTableWord 6 0b011000 = some .sLcrh ∧
    decodeTableWord 6 0b010000 = some .sMbW8 ∧ decodeTableWord 6 0b010011 = some .sMbSend ∧
    decodeTableWord 6 0b011011 = some .sGrNext ∧ decodeTableWord 6 0b100101 = some .sEcSend2 ∧
    decodeTableWord 6 0b100111 = some .reserved39 ∧ decodeTableWord 6 0b101000 = some (.reserved40To47 0#3) ∧
    decodeTableWord 6 0b101111 = some (.reserved40To47 7#3) ∧
    decodeTableWord 6 0b111111 = some (.reserved48To63 15#4) := by decide

/-- The data words of 30_encoding.md R96 and R97, in their places. -/
theorem test_decode_data :
    decode (.message 0 0x00000024#32) = .ok .mboxWord0 ∧ decode (.message 1 0#32) = .ok .mboxWord1 ∧
    decode (.message 4 8#32) = .ok .mboxWord4 ∧ decode (.message 5 2#32) = .ok .mboxWord5 ∧
    decode (.message 6 0x002DC6C0#32) = .ok (.mboxWord6 0x002DC6C0#32) ∧
    decode (.message 7 1#32) = .error (.notRequestWord 7 1#32) ∧
    decode (.channel 0x00001008#32) = .ok (.channelWord 0x100#28) ∧
    decodeTableWord 32 0x3EFFFFF8 = some (.channelWord 0x3EFFFFF#28) := ⟨rfl, rfl, rfl, rfl, rfl, rfl, rfl, by decide⟩

/-- Reset: the memory is in canonical form, and a placed index is the next row fetched (log 13). -/
theorem test_reset_fetch : State.reset.mem.wf = true ∧ fetch (State.reset.withFetchWord 6 27) = .sGrNext ∧
    fetch (State.reset.withFetchWord 32 0x00038002) = .sMbW2 := ⟨rfl, rfl, rfl⟩

/-! ## One step of each kind and row -/

/-- 95 T40-1, T40-3: step 0, mapped and not. -/
theorem test_sCrOff : seen (stateAt gk 0#6) = some (1#6, [.busW 0x3F201030#32 0#32], none) ∧
    seen (stateAt gkBare 0#6) = some (0#6, [], some (.fBus 0x3F201030#32 .write)) := by decide

/-- 95 P1 rows 2, 4 and 7, T40-2. -/
theorem test_setup_writes : seen (stateAt gk 1#6) = some (2#6, [.busW 0x3F200094#32 0#32], none) ∧
    seen (stateAt gk 3#6) = some (4#6, [.busW 0x3F200098#32 0xC000#32], none) ∧
    seen (stateAt gk 5#6) = some (6#6, [.busW 0x3F200098#32 0#32], none) ∧
    seen (stateAt gk 6#6) = some (7#6, [.busW 0x3F201044#32 0x7FF#32], none) := by decide

/-- 95 T41-1, T41-3. -/
theorem test_delays : seen (stateAt gk 2#6) = some (3#6, [.delay 150], none) ∧
    seen (stateAt gk 4#6) = some (5#6, [.delay 150], none) := by decide

/-- 95 T43-1, T43-2. -/
theorem test_sNeg : seen (stateAt gk 7#6) = some (8#6, [], none) ∧ seen (stateAt gkPlain 7#6) = some (22#6, [], none) := by
  decide

/-- 95 P1 rows 9 to 12, T40-6. -/
theorem test_configure_writes : seen (stateAt gk 22#6) = some (23#6, [.busW 0x3F201024#32 1#32], none) ∧
    seen (stateAt gk 23#6) = some (24#6, [.busW 0x3F201028#32 40#32], none) ∧
    seen (stateAt gk 24#6) = some (25#6, [.busW 0x3F20102C#32 0x70#32], none) ∧
    seen (stateAt gk 25#6) = some (26#6, [.busW 0x3F201038#32 0x7F2#32], none) ∧
    seen (stateAt gk 26#6) = some (27#6, [.busW 0x3F201030#32 0x301#32], none) := by
  refine ⟨?_, ?_, ?_, ?_, ?_⟩ <;> decide

/-- 95 T42-1 to T42-5. -/
theorem test_request_first :
    seen (stateAt gk 8#6) = some (9#6, [.bufW 0 0x24#32], none) ∧
    seen (stateAt gk 9#6) = some (10#6, [.bufW 1 0#32], none) ∧
    seen (stateAt gk 10#6) = some (11#6, [.bufW 2 0x00038002#32], none) ∧
    seen (stateAt gk 11#6) = some (12#6, [.bufW 3 12#32], none) ∧
    seen (stateAt gk 12#6) = some (13#6, [.bufW 4 8#32], none) := by
  refine ⟨?_, ?_, ?_, ?_, ?_⟩ <;> decide

/-- 95 T42-6 to T42-10. -/
theorem test_request_last :
    seen (stateAt gk 13#6) = some (14#6, [.bufW 5 2#32], none) ∧
    seen (stateAt gk 14#6) = some (15#6, [.bufW 6 0x002DC6C0#32], none) ∧
    seen (stateAt gk 15#6) = some (16#6, [.bufW 7 0#32], none) ∧
    seen (stateAt gk 16#6) = some (17#6, [.bufW 8 0#32], none) ∧
    seen (stateAt gkBare 8#6) = some (8#6, [], some (.fBus 0x1000#32 .write)) := by
  refine ⟨?_, ?_, ?_, ?_, ?_⟩ <;> decide

/-- 95 T42-1, T42-3, T42-7: the bytes in memory, lowest address first. -/
theorem test_request_bytes :
    stored (stateAt gk 8#6) 0 = some [some 0x24#8, some 0#8, some 0#8, some 0#8] ∧
    stored (stateAt gk 10#6) 2 = some [some 0x02#8, some 0x80#8, some 0x03#8, some 0x00#8] ∧
    stored (stateAt gk 14#6) 6 = some [some 0xC0#8, some 0xC6#8, some 0x2D#8, some 0x00#8] := by decide

/-- 95 T42-12 to T42-17: the channel word over legal buffer addresses. -/
theorem test_channel_words : channelWordOf 0#32 = 8#32 ∧ channelWordOf 0x10#32 = 0x18#32 ∧
    channelWordOf 0x1000#32 = 0x1008#32 ∧ channelWordOf 0x3EFFFFF0#32 = 0x3EFFFFF8#32 ∧
    channelWordOf 0x0FFFFFF0#32 = 0x0FFFFFF8#32 ∧ channelWordOf 0xFFFFFFD0#32 = 0xFFFFFFD8#32 := by decide

/-- 95 P2 row 18. -/
theorem test_sMbCw : seen (stateAt gk 17#6) = some (18#6, [], none) ∧
    latches (stateAt gk 17#6) = some (.unwritten, .unwritten, .holds 0x1008#32, 0) := by decide

/-- 95 T41-11, T41-12 (first), T41-14. -/
theorem test_sMbWfull :
    seen (stateAt gk 18#6 [always mboxStatus 0x40000000#32])
      = some (19#6, [.busR mboxStatus 0x40000000#32], none) ∧
    seen (stateAt gk 18#6 [always mboxStatus 0x80000000#32])
      = some (18#6, [.busR mboxStatus 0x80000000#32], none) ∧
    seen (stateAt gkBare 18#6) = some (18#6, [], some (.fBus mboxStatus .read)) := by decide

/-- 95 T40-11, T40-12. -/
theorem test_sMbSend :
    seen (holdingCw (stateAt gk 19#6) 0x1008#32) = some (20#6, [.busW 0x3F00B8A0#32 0x1008#32], none) ∧
    seen (stateAt gk 19#6) = some (19#6, [], some (.fUninit .cw)) := by decide

/-- 95 T41-13. -/
theorem test_sMbWempty :
    seen (stateAt gk 20#6 [always mboxStatus 0xC0000000#32])
      = some (20#6, [.busR mboxStatus 0xC0000000#32], none) ∧
    seen (stateAt gk 20#6 [always mboxStatus 0x80000000#32])
      = some (21#6, [.busR mboxStatus 0x80000000#32], none) := by decide

/-- 95 T42-21, T42-22, T42-26, T42-27. -/
theorem test_sMbRecv :
    seen (holdingCw (stateAt gk 21#6 [always mboxRead 0x1008#32]) 0x1008#32)
      = some (22#6, [.busR mboxRead 0x1008#32], none) ∧
    seen (holdingCw (stateAt gk 21#6 [always mboxRead 0x1000#32]) 0x1008#32)
      = some (20#6, [.busR mboxRead 0x1000#32], none) ∧
    seen (holdingCw (stateAt gk 21#6 [always mboxRead 0x80001008#32]) 0x1008#32)
      = some (20#6, [.busR mboxRead 0x80001008#32], none) ∧
    seen (stateAt gk 21#6) = some (21#6, [], some (.fUninit .cw)) := by decide

/-- 95 T44-2, T44-3, T44-4, T44-5. -/
theorem test_sGrNext :
    seen (stateAt gk 27#6) = some (28#6, [], none) ∧
    latches (stateAt gk 27#6) = some (.unwritten, .holds 0x48#8, .unwritten, 1) ∧
    latches (atGreetingByte 1) = some (.unwritten, .holds 0x69#8, .unwritten, 2) ∧
    seen (atGreetingByte 2) = some (31#6, [], none) ∧ seen (stateAt gkMute 27#6) = some (31#6, [], none) := by
  refine ⟨?_, ?_, ?_, ?_, ?_⟩ <;> decide

/-- 95 T41-4, T41-6, T41-7. -/
theorem test_sGrWtx :
    latches (stateAt gk 28#6 [always fr 0x90#32]) = some (.holds 0x90#32, .unwritten, .unwritten, 0) ∧
    seen (stateAt gk 28#6 [always fr 0xFFFFFFDF#32]) = some (29#6, [.busR fr 0xFFFFFFDF#32], none) ∧
    seen (stateAt gk 28#6 [always fr 0xFFFFFFFF#32]) = some (28#6, [.busR fr 0xFFFFFFFF#32], none) := by decide

/-- 95 P1 rows 16 and 17. -/
theorem test_greeting_send : seen (holdingCh (stateAt gk 29#6) 0x48#8) = some (30#6, [.busW dr 0x48#32], none) ∧
    seen (stateAt gk 30#6) = some (27#6, [], none) := by decide

/-- 95 T41-9, T41-10 (first). -/
theorem test_sEcWrx :
    seen (stateAt gk 31#6 [always fr 0x20#32]) = some (32#6, [.busR fr 0x20#32], none) ∧
    seen (stateAt gk 31#6 [always fr 0x10#32]) = some (31#6, [.busR fr 0x10#32], none) := by decide

/-- 95 T40-14, T40-15, T40-16. -/
theorem test_sEcRecv :
    seen (stateAt gk 32#6 [always dr 0x741#32]) = some (33#6, [.busR dr 0x741#32], none) ∧
    latches (stateAt gk 32#6 [always dr 0x741#32]) = some (.holds 0x741#32, .holds 0x41#8, .unwritten, 0) ∧
    latches (stateAt gk 32#6 [always dr 0xFFFFFFFF#32])
      = some (.holds 0xFFFFFFFF#32, .holds 0xFF#8, .unwritten, 0) ∧
    latches (stateAt gk 32#6 [always dr 0x100#32]) = some (.holds 0x100#32, .holds 0#8, .unwritten, 0) := by decide

/-- 95 T40-17. -/
theorem test_sEcRecv_unmapped : seen (stateAt gkBare 32#6) = some (32#6, [], some (.fBus dr .read)) := by decide

/-- 95 T40-7, T40-9, T40-10; P1 rows 26 and 29. -/
theorem test_echo_send :
    seen (stateAt gk 33#6 [always fr 0x90#32]) = some (34#6, [.busR fr 0x90#32], none) ∧
    seen (holdingCh (stateAt gk 34#6) 0x00#8) = some (35#6, [.busW dr 0#32], none) ∧
    seen (holdingCh (stateAt gk 34#6) 0xFF#8) = some (35#6, [.busW dr 0xFF#32], none) ∧
    seen (stateAt gk 34#6) = some (34#6, [], some (.fUninit .ch)) ∧
    seen (stateAt gk 36#6 [always fr 0x90#32]) = some (37#6, [.busR fr 0x90#32], none) := by
  refine ⟨?_, ?_, ?_, ?_, ?_⟩ <;> decide

/-- 95 T44-1, T44-8; P1 row 30. -/
theorem test_echo_end :
    latches (holdingCh (stateAt gk 35#6) 0x41#8) = some (.unwritten, .holds 0x0A#8, .unwritten, 0) ∧
    seen (stateAt gk 35#6) = some (36#6, [], none) ∧
    seen (holdingCh (stateAt gk 37#6) 0x0A#8) = some (38#6, [.busW dr 0x0A#32], none) ∧
    seen (stateAt gk 38#6) = some (31#6, [], none) := by decide

/-- 95 T60-1, T60-2; 60_exceptions.md R235. -/
theorem test_reserved : seen (stateAt gk 39#6) = some (39#6, [], some (.fStep 39#6)) ∧
    seen (stateAt gk 44#6) = some (44#6, [], some (.fStep 44#6)) ∧
    seen (stateAt gk 63#6) = some (63#6, [], some (.fStep 63#6)) := by decide

/-- 95 T60-3: no step is taken from a faulted state. -/
theorem test_sticky : step { stateAt gk 18#6 with fault := some (.fBus mboxStatus .read) }
    = .fault (.fBus mboxStatus .read) := rfl

/-- The codes of 60_exceptions.md R230. -/
theorem test_codes : (Fault.fBus 0#32 .read).code = 1 ∧ (Fault.fStep 39#6).code = 4 ∧ (Fault.fUninit .ch).code = 5 ∧
    (Refusal.fAlign 0#32).code = some 2 ∧ (Refusal.fConfig .a).code = some 3 := by decide

/-! ## Witnesses: states and operands that meet the hypotheses of the statements -/

/-- The nine words of the request in memory, for `CFG_GK` (95 V18). -/
def requestMemory : Memory :=
  [(0x1000, 0x24#32), (0x1004, 0#32), (0x1008, 0x00038002#32), (0x100C, 12#32), (0x1010, 8#32), (0x1014, 2#32),
   (0x1018, 0x002DC6C0#32), (0x101C, 0#32), (0x1020, 0#32)].foldl (fun m p => Memory.writeWord m p.1 p.2) []

/-- Ready to send: the request stored, the channel word in `cw`. -/
def readyToSend : State := { holdingCw (stateAt gk 19#6) 0x1008#32 with mem := requestMemory }
/-- Waiting for the firmware. -/
def waiting (n : StepIx) : State := holdingCw (stateAt gk n) 0x1008#32

theorem cw_gk {s : State} {w : Word} (hs : s.cw = .holds 0x1008#32) (h : s.cw = .holds w) :
    w = channelWordOf gk.bufAddr := by
  rw [hs] at h; injection h with h; rw [← h]; decide

/-- The invariant in the states `WRB` runs from. -/
theorem witness_invariant_send (n : StepIx) (hn : n = 29#6 ∨ n = 34#6 ∨ n = 37#6) :
    Inv (holdingCh (stateAt gk n) 0x41#8) := by
  rcases hn with rfl | rfl | rfl <;>
    exact ⟨rfl, nofun, fun _ => rfl, fun h => absurd h (by decide), by decide, by decide, nofun,
      fun _ h => absurd h (by decide), fun _ => nofun, .inl rfl⟩

/-- The invariant in the state `WRC` runs from. -/
theorem witness_invariant_ready : Inv readyToSend :=
  ⟨by decide, by decide, fun h => absurd h (by decide), fun _ => by decide, by decide, by decide, fun _ => cw_gk rfl,
    fun _ _ => nofun, fun h => absurd h (by decide), .inl rfl⟩

/-- The invariant in the states of the receive loop. -/
theorem witness_invariant_waiting (n : StepIx) (hn : n = 20#6 ∨ n = 21#6) : Inv (waiting n) := by
  rcases hn with rfl | rfl <;>
    exact ⟨rfl, nofun, fun _ => rfl, fun h => absurd h (by decide), by decide, by decide, fun _ => cw_gk rfl,
      fun _ _ => nofun, fun h => absurd h (by decide), .inl rfl⟩

theorem witness_DecodeOfEncodeIsTheRow : (Instr.sMbRecv).wf = true ∧ (Instr.reserved48To63 15#4).wf = true ∧
    (Instr.channelWord 0xFFFFFFD#28).wf = true ∧ (Instr.mboxWord6 0xFFFFFFFF#32).wf = true := by decide

theorem witness_EncodeOfDecodeIsTheCode : decode (.step 63#6) = .ok (.reserved48To63 15#4) ∧
    decode (.channel 8#32) = .ok (.channelWord 0#28) ∧ decode (.message 8 0#32) = .ok .mboxWord8 := ⟨rfl, rfl, rfl⟩

theorem witness_StepRunsTheFetchedRow :
    (encode .sEcLoop = .step (stateAt gk 38#6).step ∧ (stateAt gk 38#6).fault = none) ∧
    encode .reserved39 = .step (stateAt gk 39#6).step ∧ (stateAt gk 39#6).fault = none := ⟨⟨rfl, rfl⟩, rfl, rfl⟩

theorem witness_RowRunsItsEntry : (Instr.sMbW8).entry = some (.stw 8 (.lit 0#32)) := rfl

/-- Every register of `gk` is mapped and none of `gkBare`: both clauses of the statements about one access. -/
theorem witness_mapped : AllMapped gk ∧ ∀ reg : Reg, gkBare.isMapped (gkBare.addr reg) = false :=
  ⟨⟨fun reg => by cases reg <;> decide, by decide⟩, fun reg => by cases reg <;> decide⟩

/-- A word store is mapped, and one with only its last byte unmapped is not (42_mailbox.md R142). -/
theorem witness_mapped_word : gk.isMappedWord (bufWordAddr gk.bufAddr 8) = true ∧
    Cfg.isMappedWord ⟨board true, gkParams hi [⟨0#32, 0x1002#32⟩], by decide⟩ (bufWordAddr 0x1000#32 0) = false ∧
    Cfg.isMappedWord ⟨board true, gkParams hi [⟨0#32, 0x1003#32⟩], by decide⟩ (bufWordAddr 0x1000#32 0) = true := by
  refine ⟨?_, ?_, ?_⟩ <;> decide

theorem witness_WrWritesItsConstant : (stateAt gk 0#6).cfg.isMapped (gk.addr .uart0Cr) = true ∧
    (stateAt gkBare 0#6).cfg.isMapped (gkBare.addr .uart0Cr) = false := by decide

theorem witness_WrbSendsTheByteLatch :
    ((holdingCh (stateAt gk 29#6) 0#8).ch = .holds 0#8 ∧ gk.isMapped (gk.addr .uart0Dr) = true) ∧
    ((holdingCh (stateAt gkBare 29#6) 0#8).ch = .holds 0#8 ∧ gkBare.isMapped (gkBare.addr .uart0Dr) = false) ∧
    (stateAt gk 29#6).ch = .unwritten ∧
    (Inv (holdingCh (stateAt gk 29#6) 0x41#8) ∧ encode .sGrSend = .step 29#6) :=
  ⟨⟨rfl, by decide⟩, ⟨rfl, by decide⟩, rfl, witness_invariant_send _ (.inl rfl), rfl⟩

theorem witness_WrcSendsTheChannelWord :
    ((waiting 19#6).cw = .holds 0x1008#32 ∧ gk.isMapped (gk.addr .mboxWrite) = true) ∧
    ((holdingCw (stateAt gkBare 19#6) 8#32).cw = .holds 8#32 ∧ gkBare.isMapped (gkBare.addr .mboxWrite) = false) ∧
    (stateAt gk 19#6).cw = .unwritten ∧ (Inv readyToSend ∧ readyToSend.step = 19#6) :=
  ⟨⟨rfl, by decide⟩, ⟨rfl, by decide⟩, rfl, witness_invariant_ready, rfl⟩

theorem witness_RdbKeepsTheLowByte : gk.isMapped (gk.addr .uart0Dr) = true ∧ gkBare.isMapped (gkBare.addr .uart0Dr) = false := by
  decide

theorem witness_WtcAdvancesOnAClearBit : gk.isMapped (gk.addr .uart0Fr) = true ∧
    gkBare.isMapped (gkBare.addr .uart0Fr) = false ∧ gk.isMapped (gk.addr .mboxStatus) = true ∧
    gkBare.isMapped (gkBare.addr .mboxStatus) = false := by decide

theorem witness_StwStoresARequestWord : gk.isMappedWord (bufWordAddr gk.bufAddr 0) = true ∧
    gkBare.isMappedWord (bufWordAddr gkBare.bufAddr 8) = false ∧ 9 ≤ 9 := by decide

theorem witness_RdmMatchesTheChannelWord :
    ((waiting 21#6).cw = .holds 0x1008#32 ∧ gk.isMapped (gk.addr .mboxRead) = true) ∧
    ((holdingCw (stateAt gkBare 21#6) 8#32).cw = .holds 8#32 ∧ gkBare.isMapped (gkBare.addr .mboxRead) = false) ∧
    (stateAt gk 21#6).cw = .unwritten ∧ (Inv (waiting 21#6) ∧ (waiting 21#6).step = 21#6) :=
  ⟨⟨rfl, by decide⟩, ⟨rfl, by decide⟩, rfl, witness_invariant_waiting _ (.inr rfl), rfl⟩

theorem witness_BnpFollowsTheProfile : gk.profile.requiresClockNegotiation = true ∧
    gkPlain.profile.requiresClockNegotiation = false := ⟨rfl, rfl⟩

theorem witness_LdgTakesTheNextGreetingByte :
    (atGreetingByte 2).si = gk.params.greeting.length ∧ (stateAt gkMute 27#6).si = gkMute.params.greeting.length ∧
    gk.params.greeting[(atGreetingByte 1).si]? = some 0x69#8 ∧
    ((atGreetingByte 1).si ≤ gk.params.greeting.length ∧ ∃ t, exec .sGrNext (atGreetingByte 1) = .next t) :=
  ⟨rfl, rfl, rfl, by decide, _, rfl⟩

theorem witness_LdgBeyondTheGreetingLoadsAFreeByte : gk.params.greeting.length < (atGreetingByte 3).si := by decide

theorem witness_ReservedIndexRaisesStepFault : (39 ≤ (stateAt gk 39#6).step.toNat ∧ (stateAt gk 39#6).fault = none) ∧
    39 ≤ (stateAt gk 63#6).step.toNat ∧ (stateAt gk 63#6).fault = none := by decide

theorem witness_DataWordsAreTransferred : gk.isMappedWord (bufWordAddr gk.bufAddr 6) = true ∧
    gkBare.isMappedWord (bufWordAddr gkBare.bufAddr 6) = false := by decide

theorem witness_BufferStoreIsLittleEndian : (Instr.sMbW8).entry = some (.stw 8 (.lit 0#32)) ∧
    gk.isMappedWord (bufWordAddr gk.bufAddr 8) = true ∧ ∃ t, exec .sMbW8 (stateAt gk 16#6) = .next t :=
  ⟨rfl, by decide, _, rfl⟩

theorem witness_OtherRowsLeaveMemory :
    ((Instr.sMbCw).entry = some .lcw ∧ (∀ n v, MicroOp.lcw ≠ .stw n v) ∧ Instr.sMbCw ≠ .sMbSend ∧
      ∃ t, exec .sMbCw readyToSend = .next t) ∧
    ∃ t, exec .sMbSend readyToSend = .next t ∧ t.fault = none :=
  ⟨⟨rfl, nofun, by decide, _, rfl⟩, _, rfl, rfl⟩

/-- All four registers change somewhere. -/
theorem witness_WorkingRegistersHaveTheirWriters :
    (∃ t, exec .sEcRecv (stateAt gk 32#6 [always dr 1#32]) = .next t ∧ t.rd ≠ .unwritten ∧ t.ch ≠ .unwritten) ∧
    (∃ t, exec .sMbCw (stateAt gk 17#6) = .next t ∧ t.cw ≠ .unwritten) ∧
    ∃ t, exec .sGrNext (stateAt gk 27#6) = .next t ∧ t.si ≠ 0 :=
  ⟨⟨_, rfl, nofun, nofun⟩, ⟨_, rfl, nofun⟩, _, rfl, by decide⟩

theorem witness_EachStepAccessesOnce : (Instr.sMbSend).entry = some (.wrc .mboxWrite) ∧ readyToSend.fault = none ∧
    ∃ t, exec .sMbSend readyToSend = .next t ∧ t.fault = none := ⟨rfl, rfl, _, rfl, rfl⟩

/-- Both arms of a transfer, at its boundary index. -/
theorem witness_ControlTransfersAreTheTable :
    ((stateAt gk 38#6).step.toNat ≤ 38 ∧ ∃ t, step (stateAt gk 38#6) = .next t ∧ t.fault = none) ∧
    ∃ t, step (stateAt gk 31#6 [always fr 0x10#32]) = .next t ∧ t.fault = none ∧ t.step = 31#6 :=
  ⟨⟨by decide, _, rfl, rfl⟩, _, rfl, rfl, by decide⟩

theorem witness_ConfigurationStaysAndTraceGrows : ∃ t, exec .sCrOff (stateAt gk 0#6) = .next t := ⟨_, rfl⟩

theorem witness_FaultsAreFinal : (∃ t, step (stateAt gkBare 0#6) = .next t ∧ t.fault ≠ none) ∧
    ((stateAt gk 39#6).raise (.fStep 39#6)).fault = some (.fStep 39#6) := ⟨⟨_, rfl, by decide⟩, rfl⟩

theorem witness_MappedConfigurationHasNoBusFault : AllMapped (stateAt gk 16#6).cfg ∧
    ∃ t, step (stateAt gk 16#6) = .next t := ⟨witness_mapped.1, _, rfl⟩

theorem witness_AnswersOnlyChooseTheNextStep : (∃ t, step (stateAt gk 28#6) = .next t) ∧ (stateAt gk 28#6).step ≠ 32#6 :=
  ⟨⟨_, rfl⟩, by decide⟩

theorem witness_ResetStateIsTheSpecs : ∃ s, s = Sys2Proof.core.reset := ⟨_, rfl⟩

theorem witness_OnlyWellFormedConfigurationsRun : ∃ s, boot [board true] (gkParams hi everywhere) [] = .next s := ⟨_, rfl⟩

theorem witness_MisalignedBufferIsRefused : (0x0000100F#32).extractLsb' 0 4 ≠ 0#4 := by decide

/-- One configuration for each clause that can fail first. -/
theorem witness_ConfigurationChecksHaveTheirOrder :
    ([] : List BoardProfile).length ≠ 1 ∧ alignedBuffer (gkParams hi everywhere) = true ∧
    clauseC ⟨0x3F000002#32, true⟩ (gkParams hi everywhere) = false ∧
    (clauseC ⟨0xFFF00000#32, true⟩ (gkParams hi everywhere) = true ∧
      clauseD ⟨0xFFF00000#32, true⟩ (gkParams hi everywhere) = false) :=
  ⟨by decide, by decide, by decide, by decide, by decide⟩

/-- The last three clauses, each the first to fail. -/
theorem witness_ConfigurationChecksHaveTheirOrder_last :
    (∃ p, alignedBuffer p = true ∧ clauseC (board true) p = true ∧ clauseD (board true) p = true ∧ clauseE p = false) ∧
    (∃ p, alignedBuffer p = true ∧ clauseC (board true) p = true ∧ clauseD (board true) p = true ∧ clauseE p = true ∧
      clauseF p = false) ∧
    ∃ p, alignedBuffer p = true ∧ clauseC (board true) p = true ∧ clauseD (board true) p = true ∧ clauseE p = true ∧
      clauseF p = true ∧ clauseG (board true) p = false :=
  ⟨⟨{ gkParams hi everywhere with frTxff := 0#32 }, by decide, by decide, by decide, by decide⟩,
   ⟨{ gkParams hi everywhere with crValue := 0x300#32 }, by decide, by decide, by decide, by decide, by decide⟩,
   ⟨{ gkParams hi everywhere with mboxBufAddr := 0x3F201000#32 }, by decide, by decide, by decide, by decide, by decide,
     by decide⟩⟩

theorem witness_EveryStepKeepsTheInvariant : Inv readyToSend ∧ ∃ t, step readyToSend = .next t :=
  ⟨witness_invariant_ready, _, rfl⟩

/-- A state whose next step sends a byte, with the poll before it in the trace. -/
def polled : State := { holdingCh (stateAt gk 29#6) 0x41#8 with trace := [.busR fr 0x90#32] }

theorem one_event_split {e x : Event} {pre post : List Event} (h : [e] = pre ++ x :: post) : x = e := by
  cases pre with
  | nil => simp only [List.nil_append, List.cons.injEq] at h; exact h.1.symm
  | cons a l => simp at h

theorem witness_EveryStepKeepsTheGates : GateInv polled ∧ ∃ t, step polled = .next t := by
  refine ⟨⟨?_, ?_, ?_, ?_, fun _ => ⟨[], 0x90#32, by decide, by decide⟩, fun h => absurd h (by decide),
    fun h => absurd h (by decide), fun h => absurd h (by decide)⟩, _, rfl⟩
  · intro pre v post h; exact nomatch one_event_split h
  · intro pre v post h; have := one_event_split h; revert this; simp [fr]; intro h'; exact absurd h' (by decide)
  · intro pre v post h; exact nomatch one_event_split h
  · intro pre v post h; have := one_event_split h; revert this; simp [fr]; intro h'; exact absurd h' (by decide)

/-- The flags clear, a byte `'A'` to receive. -/
def ready : Script := [always fr 0x80#32, always dr 0x41#32]
/-- A mailbox that is free and answers with the channel word. -/
def answering : Script := [always mboxStatus 0#32, always mboxRead 0x1008#32]

/-- A run without clock negotiation comes to step 29 with the first byte of the greeting. -/
theorem witness_run_greeting : ∃ t, Reachable t ∧ t.step = 29#6 ∧ t.cfg = gkPlain :=
  ⟨_, ⟨gkPlain, ready, Reaches.of_run 15 rfl⟩, by decide, rfl⟩

/-- A run comes to step 30 with a write of `UART0_DR` in its trace. -/
theorem witness_TransmitIsGated : ∃ t, Reachable t ∧ .busW dr 0x48#32 ∈ t.trace :=
  ⟨_, ⟨gkPlain, ready, Reaches.of_run 16 rfl⟩, by decide⟩

/-- A run comes to step 33 with a read of `UART0_DR` in its trace. -/
theorem witness_ReceiveIsGated : ∃ t, Reachable t ∧ .busR dr 0x41#32 ∈ t.trace ∧ t.step = 33#6 :=
  ⟨_, ⟨gkMute, ready, Reaches.of_run 16 rfl⟩, by decide, by decide⟩

theorem witness_ByteLatchIsWrittenBeforeRead : ∃ t, Reachable t ∧ t.step = 29#6 :=
  witness_run_greeting.imp fun _ h => ⟨h.1, h.2.1⟩

theorem witness_InitializationTrace : ∃ t, (State.initial gkPlain []).step = 0#6 ∧ Reaches (State.initial gkPlain []) t ∧
    t.step = 27#6 ∧ t.si = (State.initial gkPlain []).si := ⟨_, rfl, Reaches.of_run 13 rfl, by decide, rfl⟩

/-- The same with clock negotiation and an exchange that ends. -/
theorem witness_InitializationTrace_negotiated : ∃ t, Reaches (State.initial gk answering) t ∧ t.step = 27#6 ∧ t.si = 0 :=
  ⟨_, Reaches.of_run 27 rfl, by decide, rfl⟩

theorem witness_MailboxExchangeTrace : ∃ t, (stateAt gk 8#6 answering).step = 8#6 ∧
    Reaches (stateAt gk 8#6 answering) t ∧ t.step = 22#6 := ⟨_, rfl, Reaches.of_run 14 rfl, by decide⟩

/-- A first run, and a second one begun again from its end (43_uart_init.md R188). -/
theorem witness_InitializationIsRepeatable : ∃ t t', Reaches (State.initial gkPlain []) t ∧ t.step = 27#6 ∧
    t.restart.step = 0#6 ∧ t.restart.cfg = gkPlain ∧ Reaches t.restart t' ∧ t'.step = 27#6 ∧ t'.si = t.restart.si :=
  ⟨_, _, Reaches.of_run 13 rfl, by decide, rfl, rfl, Reaches.of_run 13 rfl, by decide, rfl⟩

theorem witness_DisableBeforeReconfigure : ∃ (s : State) (pre post : List Event) (e : Event), Reachable s ∧
    s.trace = pre ++ e :: post ∧ e ≠ .busW (s.cfg.addr .uart0Cr) 0#32 :=
  ⟨_, [.busW (gk.addr .uart0Cr) 0#32], [], .busW (gk.addr .gppud) 0#32, ⟨gk, [], Reaches.of_run 2 rfl⟩, rfl, by decide⟩

/-- A reachable state past the handshake. -/
theorem witness_HandshakeOrder : ∃ s, Reachable s ∧ s.step = 7#6 ∧ s.trace.length = 7 :=
  ⟨_, ⟨gk, [], Reaches.of_run 7 rfl⟩, by decide, by decide⟩

theorem witness_InitializationWithoutNegotiation : gkPlain.profile.requiresClockNegotiation = false ∧ AllMapped gkPlain ∧
    (State.initial gkPlain []).step = 0#6 ∧ (State.initial gkPlain []).fault = none :=
  ⟨rfl, ⟨fun reg => by cases reg <;> decide, by decide⟩, rfl, rfl⟩

theorem witness_NoMailboxWithoutNegotiation : ∃ s, Reachable s ∧ s.cfg.profile.requiresClockNegotiation = false ∧
    s.step = 22#6 := ⟨_, ⟨gkPlain, [], Reaches.of_run 8 rfl⟩, rfl, by decide⟩

theorem witness_RequestCompleteAndSentOnce : ∃ s, Reachable s ∧ s.step = 19#6 :=
  ⟨_, ⟨gk, answering, Reaches.of_run 19 rfl⟩, by decide⟩

theorem witness_FirmwareOwnsAnUntouchedBuffer : (∃ s, Reachable s ∧ s.bufOwner = .firmware) ∧
    (waiting 21#6).bufOwner = .firmware ∧ ∃ t, step (waiting 21#6) = .next t :=
  ⟨⟨_, ⟨gk, answering, Reaches.of_run 20 rfl⟩, by decide⟩, by decide, _, rfl⟩

/-- 95 T41-8. -/
theorem witness_PollHasNoTimeout : (decodeStep 28#6).entry = some (.wtc .uart0Fr (.param .frTxff)) ∧
    (stateAt gk 28#6).fault = none ∧ gk.isMapped (gk.addr .uart0Fr) = true ∧
    AlwaysAnswers [always fr 0x20#32] (gk.addr .uart0Fr) 0x20#32 ∧
    0x20#32 &&& (Const.param .frTxff).eval gk.params ≠ 0#32 := ⟨rfl, rfl, by decide, ⟨by decide, by decide⟩, by decide⟩

/-- 95 T45-1. -/
theorem witness_EchoTurn : (stateAt gk 31#6 ready).step = 31#6 ∧ (stateAt gk 31#6 ready).fault = none ∧
    gk.isMapped (gk.addr .uart0Fr) = true ∧ gk.isMapped (gk.addr .uart0Dr) = true ∧
    AlwaysAnswers ready (gk.addr .uart0Fr) 0x80#32 ∧ Script.answer ready (gk.addr .uart0Dr) = some 0x41#32 ∧
    0x80#32 &&& gk.params.frTxff = 0#32 ∧ 0x80#32 &&& gk.params.frRxfe = 0#32 :=
  ⟨rfl, rfl, by decide, by decide, ⟨by decide, by decide⟩, by decide, by decide, by decide⟩

theorem witness_OutputIsGreetingThenEchoes : (∃ s, Reachable s ∧ s.step = 31#6 ∧ s.fault = none) ∧
    ∃ s, Reachable s ∧ s.step = 32#6 :=
  ⟨⟨_, ⟨gkMute, [], Reaches.of_run 14 rfl⟩, by decide, rfl⟩, _, ⟨gkMute, ready, Reaches.of_run 15 rfl⟩, by decide⟩

/-- A board that negotiates, with every wait answered at once. -/
def serving : Script := [always fr 0x80#32, always mboxStatus 0#32, always mboxRead 0x1008#32]

/-- The premises of 70_reset_and_hazards.md R272 hold in that environment. -/
theorem witness_WaitsEnd : WaitsEnd (State.initial gk serving) where
  txReady := .of_always (w := 0x80#32) (by decide) ⟨by decide, by decide⟩
  mailboxNotFull := .of_always (w := 0#32) (by decide) ⟨by decide, by decide⟩
  mailboxNotEmpty := .of_always (w := 0#32) (by decide) ⟨by decide, by decide⟩
  matched := .of_always (w := 0x1008#32) (by decide) ⟨by decide, by decide⟩

theorem witness_RunsGoOnForEver : ∃ s, Reachable s ∧ s.fault = none ∧ AllMapped s.cfg ∧ WaitsEnd s :=
  ⟨State.initial gk serving, ⟨gk, serving, .here⟩, rfl, witness_mapped.1, witness_WaitsEnd⟩

end Sys2Proof.Tests
end

section
/-! PROOFS. Scope (00_scope.md): every row keeps the configuration and only lengthens the trace; a machine starts exactly on
a well-formed configuration. -/

namespace Sys2Proof.Machine

/-! ## What a row can do -/

/-- A row with an entry runs it (30_encoding.md R91, R100). -/
theorem exec_of_entry {i : Instr} {op : MicroOp} (h : i.entry = some op) (s : State) : exec i s = runMicroOp op s := by
  cases i <;> cases h <;> rfl

/-- The 52 rows by their meaning: a micro-operation (the entry of a step row, the store of a message word), `F_STEP`, or the
load of a channel word. -/
theorem exec_cases (i : Instr) (s : State) :
    (∃ op, exec i s = runMicroOp op s) ∨ (∃ x, exec i s = opReserved x s) ∨ ∃ w, exec i s = opLoadChannel w s := by
  cases i with
  | reserved39 | reserved40To47 x | reserved48To63 x => exact .inr (.inl ⟨_, rfl⟩)
  | channelWord a => exact .inr (.inr ⟨_, rfl⟩)
  | mboxWord0 | mboxWord1 | mboxWord2 | mboxWord3 | mboxWord4 | mboxWord5 | mboxWord6 r | mboxWord7 | mboxWord8 =>
    exact .inl ⟨.stw _ (.lit _), rfl⟩
  | _ => exact .inl ⟨_, exec_of_entry rfl s⟩

/-- A micro-operation takes no event back (10_state.md R27). -/
theorem runMicroOp_trace_prefix {op : MicroOp} {s t : State} (h : runMicroOp op s = .next t) : s.trace <+: t.trace := by
  cases op with
  | wr reg value | rdb reg | wtc reg mask | stw index value =>
    simp only [runMicroOp, opWr_eq, opRdb_eq, opWtc_eq, opStw_eq, Host.Outcome.next.injEq] at h
    subst h
    split
    · exact List.prefix_append _ _
    · exact List.prefix_rfl
  | wrb reg | wrc reg | rdm reg target =>
    simp only [runMicroOp, opWrb_eq, opWrc_eq, opRdm_eq, Host.Outcome.next.injEq] at h
    subst h
    split
    · exact List.prefix_rfl
    · split
      · simp
      · exact List.prefix_rfl
  | dly count =>
    simp only [runMicroOp, opDly_eq, Host.Outcome.next.injEq] at h
    subst h
    exact List.prefix_append _ _
  | lcw | bnp target | ldc byte | jmp target =>
    simp only [runMicroOp, opLcw_eq, opBnp_eq, opLdc_eq, opJmp_eq, Host.Outcome.next.injEq] at h
    subst h
    exact List.prefix_rfl
  | ldg target =>
    simp only [runMicroOp, opLdg_eq, Host.Outcome.next.injEq] at h
    subst h
    split <;> exact List.prefix_rfl

/-- Settles O31, by the three kinds of meaning a row can have. -/
theorem configurationStaysAndTraceGrows : Obligations.ConfigurationStaysAndTraceGrows := by
  intro i s t h
  rcases exec_cases i s with ⟨op, e⟩ | ⟨x, e⟩ | ⟨w, e⟩ <;> rw [e] at h
  · exact ⟨(runMicroOp_answers h).1, runMicroOp_trace_prefix h⟩
  · cases h
    exact ⟨rfl, List.prefix_rfl⟩
  · cases h
    exact ⟨rfl, List.prefix_rfl⟩

/-! ## Starting a machine -/

/-- A machine starts exactly when one profile is given and its check passes. -/
theorem boot_next_iff (profiles : List BoardProfile) (p : Params) (sc : Script) :
    (∃ s, boot profiles p sc = .next s) ↔ ∃ b, profiles = [b] ∧ cfgCheck b p = none := by
  by_cases hone : profiles.length = 1
  · obtain ⟨b, rfl⟩ := List.length_eq_one_iff.1 hone
    rcases Cfg.build_single b p with ⟨c, hbuild, hcheck, -, -⟩ | ⟨e, hbuild, hcheck⟩
    · simp [boot, hbuild, hcheck]
    · cases e <;> simp [boot, hbuild, hcheck]
  · simp only [boot, Cfg.build_other hone, reduceCtorEq, exists_false, false_iff]
    rintro ⟨b, rfl, -⟩
    exact hone rfl

end Sys2Proof.Machine

namespace Sys2Proof

open Machine

/-- The low four bits of an address are zero exactly at a 16-byte boundary. -/
theorem extractLsb'_low4_eq_zero_iff (a : Word) : a.extractLsb' 0 4 = 0#4 ↔ a.toNat % 16 = 0 := by
  rw [← BitVec.toNat_inj]
  simp

/-- Two byte ranges lie one after the other exactly when they share no byte. -/
theorem ranges_disjoint_iff (a b : Nat) {m n : Nat} (hm : 0 < m) (hn : 0 < n) :
    (a + m ≤ b ∨ b + n ≤ a) ↔ ∀ x y, x < m → y < n → a + x ≠ b + y := by
  constructor
  · omega
  · intro hdisjoint
    by_contra hoverlap
    -- The larger of the two starts would be a shared byte.
    exact hdisjoint (b - a) (a - b) (by omega) (by omega) (by omega)

/-- A register's address is the plain sum where clause (d) holds. -/
theorem regAddr_toNat {b : BoardProfile} {p : Params} {r : Reg}
    (h : b.baseAddress.toNat + (p.off r).toNat < 2 ^ 32) :
    (regAddr b p r).toNat = b.baseAddress.toNat + (p.off r).toNat := by
  rw [regAddr, BitVec.toNat_add, Nat.mod_eq_of_lt h]

/-- Clause (g) byte by byte, for a configuration that meets clause (d) (00_scope.md R14). -/
theorem clauseG_iff_no_shared_byte {b : BoardProfile} {p : Params}
    (hd : ∀ r : Reg, b.baseAddress.toNat + (p.off r).toNat < 2 ^ 32) :
    clauseG b p = true ↔ ∀ (r : Reg) (x y : Nat), x < 36 → y < 4 →
      p.mboxBufAddr.toNat + x ≠ b.baseAddress.toNat + (p.off r).toNat + y := by
  rw [clauseG_iff]
  refine forall_congr' fun r => ?_
  rw [regAddr_toNat (hd r)]
  exact ranges_disjoint_iff _ _ (by decide) (by decide)

/-- Settles O36, clause by clause: the check is the conjunction of the clauses, and clause (d) lets clause (g) be read
without wrapping sums. -/
theorem onlyWellFormedConfigurationsRun : Obligations.OnlyWellFormedConfigurationsRun := by
  intro profiles p sc
  rw [boot_next_iff]
  refine exists_congr fun b => and_congr_right fun _ => ?_
  rw [cfgCheck_none_iff, alignedBuffer_iff, ← extractLsb'_low4_eq_zero_iff, clauseC_iff, clauseD_iff, clauseE_iff,
    clauseF_iff]
  refine and_congr_right fun _ => and_congr_right fun _ => and_congr_right fun ⟨hd, _⟩ => ?_
  rw [clauseG_iff_no_shared_byte hd]

end Sys2Proof
end

section
/-! PROOFS. State (10_state.md): the invariant holds at reset and every step keeps it; which step writes which part of
the state; what the environment's answers can change; the buffer while the firmware owns it. -/

namespace Sys2Proof.Machine

/-! ## The row a step runs -/

theorem encode_decodeStep (x : StepIx) : encode (decodeStep x) = .step x := by
  revert x
  decide

/-- A reserved row raises `F_STEP` with its index (30_encoding.md R110, 60_exceptions.md R235). -/
theorem exec_of_no_entry {i : Instr} {x : StepIx} (hx : encode i = .step x) (hi : i.entry = none) (s : State) :
    exec i s = .next (s.raise (.fStep x)) := by
  cases i with
  | reserved39 | reserved40To47 y | reserved48To63 y => cases hx; rfl
  | channelWord a => cases hx
  | mboxWord0 | mboxWord1 | mboxWord2 | mboxWord3 | mboxWord4 | mboxWord5 | mboxWord6 r | mboxWord7 | mboxWord8 =>
    cases hx
  | _ => cases hi

/-- A step runs the entry at its index, or raises `F_STEP` where there is none (30_encoding.md R91, R110). -/
theorem step_entry {s t : State} (h : step s = .next t) :
    (∃ op, (decodeStep s.step).entry = some op ∧ runMicroOp op s = .next t) ∨
      ((decodeStep s.step).entry = none ∧ t = s.raise (.fStep s.step)) := by
  rw [step_of_none (fault_none_of_step h)] at h
  cases hop : (decodeStep s.step).entry with
  | some op => exact .inl ⟨op, rfl, exec_of_entry hop s ▸ h⟩
  | none =>
    rw [exec_of_no_entry (encode_decodeStep _) hop] at h
    exact .inr ⟨rfl, (Host.Outcome.next.inj h).symm⟩

theorem entry_isSome_of_le {x : StepIx} (hx : x.toNat ≤ 38) : (decodeStep x).entry ≠ none := by
  revert x
  decide

/-! ## The microprogram checked against the invariant

`Inv` asks of a state what its step index calls for. Whether each entry leads only to indices whose demands are met is a
check of the fixed microprogram, made once for all 64 indices; what remains are the states, by the kind of the entry. -/

/-- `Inv` asks for `cw` at these indices. -/
abbrev NeedsCw (x : StepIx) : Prop := 18 ≤ x.toNat ∧ x.toNat ≤ 21

/-- `Inv` asks for `ch` at these indices. -/
abbrev NeedsCh (x : StepIx) : Prop := x.toNat = 28 ∨ x.toNat = 29 ∨ (33 ≤ x.toNat ∧ x.toNat ≤ 37)

/-- Index `y` is legal, and what `Inv` asks of the memory there it asks at `x` already. -/
abbrev CarriesMemory (x y : StepIx) : Prop :=
  y.toNat ≤ 38 ∧ (y.toNat ≤ 8 ∨ 20 ≤ y.toNat → x.toNat ≤ 8 ∨ 20 ≤ x.toNat) ∧
    (y.toNat ≤ 19 → y.toNat ≤ 8 ∨ 17 ≤ x.toNat ∧ x.toNat ≤ 19)

/-- All that `Inv` asks at `y` it asks at `x` already. -/
abbrev Carries (x y : StepIx) : Prop :=
  CarriesMemory x y ∧ (NeedsCw y → NeedsCw x) ∧ (NeedsCh y → NeedsCh x)

/-- The entry may stand at index `x`: what it reads is written there, and wherever it leads, the demands are met by
those at `x` and by what it writes itself. -/
def fits (x : StepIx) : MicroOp → Bool
  | .wr _ _ => decide (Carries x (x + 1#6))
  | .wrb _ => decide (NeedsCh x ∧ Carries x (x + 1#6))
  | .wrc reg => decide (x = 19#6 ∧ reg = .mboxWrite)
  | .rdb _ => decide (CarriesMemory x (x + 1#6) ∧ ¬ NeedsCw (x + 1#6))
  | .dly _ => decide (Carries x (x + 1#6))
  | .wtc _ _ => decide (Carries x (x + 1#6))
  | .stw index _ => decide (index < 9 ∧ x.toNat = index + 8)
  | .lcw => decide (CarriesMemory x (x + 1#6) ∧ ¬ NeedsCh (x + 1#6))
  | .rdm _ target => decide (NeedsCw x ∧ Carries x (x + 1#6) ∧ Carries x target)
  | .bnp target => decide (Carries x (x + 1#6) ∧ Carries x target)
  | .ldc _ => decide (CarriesMemory x (x + 1#6) ∧ ¬ NeedsCw (x + 1#6))
  | .ldg target => decide ((CarriesMemory x (x + 1#6) ∧ ¬ NeedsCw (x + 1#6)) ∧ Carries x target)
  | .jmp target => decide (Carries x target)

theorem entry_fits : ∀ x : StepIx, ∀ op ∈ (decodeStep x).entry, fits x op = true := by
  decide

/-- Word `index` is stored with the value the request has there (30_encoding.md R97). -/
theorem stw_entry_value {i : Instr} {index : Nat} {value : Const} (h : i.entry = some (.stw index value)) (c : Cfg) :
    value.eval c.params = requestWordAt c index := by
  cases i with
  | sMbW0 | sMbW1 | sMbW2 | sMbW3 | sMbW4 | sMbW5 | sMbW6 | sMbW7 | sMbW8 => cases h; rfl
  | _ => cases h

/-! ## What keeps the invariant -/

namespace Inv

variable {s : State}

theorem needsCw (h : Inv s) (hx : NeedsCw s.step) : s.cw ≠ .unwritten := h.cwWritten hx.1 hx.2

/-- Accesses: `rd`, the trace and the pending answers are free. -/
theorem access (h : Inv s) (rd : Latch 32) (trace : List Event) (script : Script) :
    Inv { s with rd := rd, trace := trace, script := script } :=
  { h with }

theorem raise_fBus (h : Inv s) (a : Word) (k : Access) : Inv (s.raise (.fBus a k)) :=
  { h with faultKind := .inr ⟨a, k, rfl⟩ }

theorem holdCh (h : Inv s) (b : Byte) : Inv { s with ch := .holds b } :=
  { h with chWritten := fun _ => nofun }

theorem holdCw (h : Inv s) : Inv { s with cw := .holds (channelWordOf s.cfg.bufAddr) } :=
  { h with
    cwValue := fun _ hw => (Latch.holds.inj hw).symm
    cwWritten := fun _ _ => nofun }

theorem countGreetingByte (h : Inv s) (hsi : s.si ≠ s.cfg.greetingLen) : Inv { s with si := s.si + 1 } :=
  { h with siBound := Nat.lt_of_le_of_ne h.siBound hsi }

/-- Going to an index that asks of memory what the present one asks. -/
theorem goto (h : Inv s) {y : StepIx} (hm : CarriesMemory s.step y) (hcw : NeedsCw y → s.cw ≠ .unwritten)
    (hch : NeedsCh y → s.ch ≠ .unwritten) : Inv { s with step := y } := by
  obtain ⟨hlegal, hunspec, hreq⟩ := hm
  refine { h with
    memUnspecified := fun hy => h.memUnspecified (hunspec hy)
    memRequest := fun hy i hi hiy => ?_
    stepLegal := hlegal
    cwWritten := fun h1 h2 => hcw ⟨h1, h2⟩
    chWritten := hch }
  change i + 8 < y.toNat at hiy
  have := hreq hy
  exact h.memRequest (by omega) i hi (by omega)

theorem goto_of_carries (h : Inv s) {y : StepIx} (hxy : Carries s.step y) : Inv { s with step := y } :=
  h.goto hxy.1 (fun hy => h.needsCw (hxy.2.1 hy)) (fun hy => h.chWritten (hxy.2.2 hy))

/-- Storing word `n` of the request at step `n + 8` (42_mailbox.md R145 to R153). -/
theorem store (h : Inv s) {n : Nat} (hn : n < 9) (hx : s.step.toNat = n + 8) (trace : List Event) :
    Inv { s with
      mem := s.mem.writeWord (bufWordAddr s.cfg.bufAddr n).toNat (requestWordAt s.cfg n)
      trace := trace, step := s.step + 1#6 } := by
  have hnext : (s.step + 1#6).toNat = n + 9 := by simp only [BitVec.toNat_add, BitVec.toNat_ofNat]; omega
  refine { h with
    memWf := Memory.wf_writeWord h.memWf _ _
    memInBuffer := ?inBuffer
    memUnspecified := ?unspecified
    memRequest := ?request
    stepLegal := ?legal
    cwWritten := ?cw
    chWritten := ?ch }
  case inBuffer =>
    intro c hc
    rcases Memory.mem_writeWord hc with ⟨hlo, hhi⟩ | hc
    · rw [s.cfg.bufWordAddr_toNat hn] at hlo hhi
      simp only [Config.mboxBytes]
      omega
    · exact h.memInBuffer c hc
  case request =>
    intro _ i hi hiy
    simp only [hnext] at hiy
    simp only [State.bufSpecified]
    obtain rfl | hin : i = n ∨ i < n := by omega
    · exact Memory.readWord_writeWord _ _ _
    · rw [Memory.readWord_writeWord_ne]
      · exact h.memRequest (by omega) i hi (by omega)
      · rw [s.cfg.bufWordAddr_toNat hn, s.cfg.bufWordAddr_toNat hi]
        omega
  -- Indices 9 to 17 ask for nothing else.
  all_goals simp only [hnext]; omega

/-- Step 19 hands the buffer over: nothing of it is specified at step 20 (10_state.md R48). -/
theorem handOver (h : Inv s) (hx : s.step = 19#6) (trace : List Event) :
    Inv (Machine.handOver .mboxWrite { s with trace := trace }).advance := by
  have hmem : s.mem.forget s.cfg.bufAddr.toNat Config.mboxBytes = [] := Memory.forget_all h.memInBuffer
  have hcw : s.cw ≠ .unwritten := h.needsCw (by rw [hx]; decide)
  refine { h with
    memWf := Memory.wf_forget h.memWf _ _
    memInBuffer := ?inBuffer
    memUnspecified := fun _ => hmem
    memRequest := ?request
    stepLegal := ?legal
    cwWritten := fun _ _ => hcw
    chWritten := ?ch }
  case inBuffer => simp [hmem]
  all_goals simp [hx]

end Inv

/-- A micro-operation at an index it fits keeps the invariant, kind by kind. -/
theorem runMicroOp_keeps_Inv {op : MicroOp} {s t : State} (h : Inv s) (hfit : fits s.step op = true)
    (hvalue : ∀ n v, op = .stw n v → v.eval s.cfg.params = requestWordAt s.cfg n) (ht : runMicroOp op s = .next t) :
    Inv t := by
  cases op <;> simp only [fits, decide_eq_true_eq] at hfit <;>
    simp only [runMicroOp, opWr_eq, opWrb_eq, opWrc_eq, opRdb_eq, opDly_eq, opWtc_eq, opLcw_eq, opRdm_eq, opBnp_eq,
      opLdc_eq, opLdg_eq, opJmp_eq, opStw_eq, Host.Outcome.next.injEq] at ht <;>
    subst ht
  case wr reg value =>
    split
    · exact (h.goto_of_carries hfit).access _ _ _
    · exact h.raise_fBus _ _
  case wrb reg =>
    obtain ⟨hreads, hfit⟩ := hfit
    split
    · next hch => exact absurd hch (h.chWritten hreads)
    · split
      · exact (h.goto_of_carries hfit).access _ _ _
      · exact h.raise_fBus _ _
  case wrc reg =>
    obtain ⟨hx, rfl⟩ := hfit
    split
    · next hcw => exact absurd hcw (h.needsCw (by rw [hx]; decide))
    · split
      · exact h.handOver hx _
      · exact h.raise_fBus _ _
  case rdb reg =>
    obtain ⟨hmem, hcw⟩ := hfit
    split
    · exact ((h.holdCh _).goto hmem (fun hy => absurd hy hcw) nofun).access _ _ _
    · exact h.raise_fBus _ _
  case dly count =>
    exact (h.goto_of_carries hfit).access _ _ _
  case wtc reg mask =>
    split
    · split
      · exact (h.goto_of_carries hfit).access _ _ _
      · exact h.access _ _ _
    · exact h.raise_fBus _ _
  case stw index value =>
    obtain ⟨hindex, hx⟩ := hfit
    rw [hvalue index value rfl]
    split
    · exact h.store hindex hx _
    · exact h.raise_fBus _ _
  case lcw =>
    obtain ⟨hmem, hch⟩ := hfit
    exact h.holdCw.goto hmem nofun (fun hy => absurd hy hch)
  case rdm reg target =>
    obtain ⟨hreads, hmatch, hstale⟩ := hfit
    split
    · next hcw => exact absurd hcw (h.needsCw hreads)
    · split
      · split
        · exact (h.goto_of_carries hmatch).access _ _ _
        · exact (h.goto_of_carries hstale).access _ _ _
      · exact h.raise_fBus _ _
  case bnp target =>
    split
    · exact h.goto_of_carries hfit.1
    · exact h.goto_of_carries hfit.2
  case ldc byte =>
    obtain ⟨hmem, hcw⟩ := hfit
    exact (h.holdCh _).goto hmem (fun hy => absurd hy hcw) nofun
  case ldg target =>
    obtain ⟨⟨hmem, hcw⟩, hend⟩ := hfit
    split
    · exact h.goto_of_carries hend
    · next hsi =>
      exact ((h.countGreetingByte hsi).holdCh _).goto hmem (fun hy => absurd hy hcw) nofun
  case jmp target =>
    exact h.goto_of_carries hfit

/-- Settles O42: the entry fits its index, and a micro-operation that fits keeps the invariant. -/
theorem everyStepKeepsTheInvariant : Obligations.EveryStepKeepsTheInvariant := by
  intro s t h ht
  rcases step_entry ht with ⟨op, hop, hrun⟩ | ⟨hnone, -⟩
  · exact runMicroOp_keeps_Inv h (entry_fits s.step op hop) (fun n v hv => stw_entry_value (hv ▸ hop) s.cfg) hrun
  · exact absurd hnone (entry_isSome_of_le h.stepLegal)

/-! ## At reset -/

/-- Settles O35: the machine's reset state is an initial state, and those are written out by `State.initial`. -/
theorem resetStateIsTheSpecs : Obligations.ResetStateIsTheSpecs := by
  rintro s (rfl | ⟨c, sc, rfl⟩) <;> exact ⟨rfl, rfl, rfl, rfl, rfl, rfl, rfl, fun _ => rfl, rfl⟩

theorem inv_initial (c : Cfg) (sc : Script) : Inv (State.initial c sc) where
  memWf := rfl
  memInBuffer := nofun
  memUnspecified _ := rfl
  memRequest _ i _ hi := absurd hi (Nat.not_lt_zero _)
  stepLegal := Nat.zero_le _
  siBound := Nat.zero_le _
  cwValue := nofun
  cwWritten h _ := by simp at h
  chWritten h := by simp at h
  faultKind := .inl rfl

/-- Settles O41: the machine's reset state is an initial state. -/
theorem resetMeetsTheInvariant : Obligations.ResetMeetsTheInvariant :=
  ⟨inv_initial _ _, inv_initial⟩

theorem Reachable.inv {s : State} (h : Reachable s) : Inv s := by
  obtain ⟨c, sc, hreach⟩ := h
  exact hreach.keeps (inv_initial c sc) everyStepKeepsTheInvariant

/-- Settles O40: the table has 39 lines. -/
theorem phasesFollowTheTable : Obligations.PhasesFollowTheTable := by
  unfold Obligations.PhasesFollowTheTable
  decide

/-! ## What each micro-operation leaves unchanged -/

/-- The working registers and their writers (10_state.md R23 to R26). -/
theorem runMicroOp_writers {op : MicroOp} {s t : State} (h : runMicroOp op s = .next t) :
    (t.rd ≠ s.rd → (∃ r m, op = .wtc r m) ∨ (∃ r, op = .rdb r) ∨ ∃ r u, op = .rdm r u) ∧
    (t.ch ≠ s.ch → (∃ r, op = .rdb r) ∨ (∃ u, op = .ldg u) ∨ ∃ b, op = .ldc b) ∧
    (t.cw ≠ s.cw → op = .lcw) ∧
    (t.si ≠ s.si → (∃ u, op = .ldg u) ∧ t.si = s.si + 1) := by
  cases op with
  | wr reg value | rdb reg | wtc reg mask | stw index value | ldg target =>
    simp only [runMicroOp, opWr_eq, opRdb_eq, opWtc_eq, opStw_eq, opLdg_eq, Host.Outcome.next.injEq] at h
    subst h
    split <;> simp
  | wrb reg | wrc reg | rdm reg target =>
    simp only [runMicroOp, opWrb_eq, opWrc_eq, opRdm_eq, Host.Outcome.next.injEq] at h
    subst h
    split
    · simp
    · split <;> simp
  | dly count | lcw | bnp target | ldc byte | jmp target =>
    simp only [runMicroOp, opDly_eq, opLcw_eq, opBnp_eq, opLdc_eq, opJmp_eq, Host.Outcome.next.injEq] at h
    subst h
    simp

/-- Settles O28: a row with an entry runs it. -/
theorem workingRegistersHaveTheirWriters : Obligations.WorkingRegistersHaveTheirWriters := by
  intro i op s t hop h
  rw [exec_of_entry hop] at h
  exact runMicroOp_writers h

theorem handOver_of_ne {reg : Reg} (h : reg ≠ .mboxWrite) (s : State) : handOver reg s = s := by
  cases reg with
  | mboxWrite => exact absurd rfl h
  | _ => rfl

/-- Only `STW` stores, and only a write of `MBOX_WRITE` gives the buffer away (10_state.md R48, R49). -/
theorem runMicroOp_memory {op : MicroOp} {s t : State} (hstw : ∀ n v, op ≠ .stw n v) (hwrc : op ≠ .wrc .mboxWrite)
    (h : runMicroOp op s = .next t) : t.mem = s.mem ∧ ∀ n v, t.trace ≠ s.trace ++ [.bufW n v] := by
  cases op with
  | stw index value => exact absurd rfl (hstw index value)
  | wr reg value | rdb reg | wtc reg mask | ldg target =>
    simp only [runMicroOp, opWr_eq, opRdb_eq, opWtc_eq, opLdg_eq, Host.Outcome.next.injEq] at h
    subst h
    split <;> simp
  | wrb reg | rdm reg target =>
    simp only [runMicroOp, opWrb_eq, opRdm_eq, Host.Outcome.next.injEq] at h
    subst h
    split
    · simp
    · split <;> simp
  | wrc reg =>
    have hreg : reg ≠ .mboxWrite := fun hreg => hwrc (hreg ▸ rfl)
    simp only [runMicroOp, opWrc_eq, Host.Outcome.next.injEq] at h
    subst h
    split
    · simp
    · split <;> simp [handOver_of_ne hreg]
  | dly count | lcw | bnp target | ldc byte | jmp target =>
    simp only [runMicroOp, opDly_eq, opLcw_eq, opBnp_eq, opLdc_eq, opJmp_eq, Host.Outcome.next.injEq] at h
    subst h
    simp

theorem eq_sMbSend_of_wrc_entry {i : Instr} {reg : Reg} (h : i.entry = some (.wrc reg)) : i = .sMbSend := by
  cases i with
  | sMbSend => rfl
  | _ => cases h

/-- Settles O27: the frame of the kinds that store nothing, and what handing the buffer over forgets. -/
theorem otherRowsLeaveMemory : Obligations.OtherRowsLeaveMemory := by
  constructor
  · intro i op s t hop hstw hsend h a
    rw [exec_of_entry hop] at h
    have hwrc : op ≠ .wrc .mboxWrite := fun hw => hsend (eq_sMbSend_of_wrc_entry (hw ▸ hop))
    rw [(runMicroOp_memory hstw hwrc h).1]
  · intro s t h
    change opWrc .mboxWrite s = .next t at h
    rw [opWrc_eq, Host.Outcome.next.injEq] at h
    subst h
    split
    · simp
    · split
      · simp only [State.advance_mem, handOver_mboxWrite_mem, State.emit_mem, State.emit_cfg, Memory.read_forget,
          Config.mboxBytes]
        exact ⟨fun a ha => if_neg (by omega), fun _ a hlo hhi => if_pos ⟨hlo, hhi⟩⟩
      · simp

/-! ## What the environment's answers can change -/

/-- Two outcomes of one micro-operation that met different answers: alike but for `rd`, `ch`, the index, the pending
answers and the words read. -/
structure AgreeButAnswers (t u : State) : Prop where
  fault : u.fault = t.fault
  cfg : u.cfg = t.cfg
  cw : u.cw = t.cw
  si : u.si = t.si
  mem : u.mem = t.mem
  events : u.trace.length = t.trace.length
  writes : busWrites u.trace = busWrites t.trace

namespace AgreeButAnswers

/-- Where nothing was read. -/
theorem of_script (t : State) (sc : Script) : AgreeButAnswers t { t with script := sc } := by
  constructor <;> rfl

/-- Where the word at one address was read. -/
theorem of_read (s : State) (a : Word) {v v' : Word} {rd rd' : Latch 32} {ch ch' : Latch 8} {x x' : StepIx}
    {sc sc' : Script} :
    AgreeButAnswers { s with step := x, rd := rd, ch := ch, trace := s.trace ++ [.busR a v], script := sc }
      { s with step := x', rd := rd', ch := ch', trace := s.trace ++ [.busR a v'], script := sc' } := by
  constructor <;> simp [busWrites_append, busWrites]

end AgreeButAnswers

theorem handOver_other_answers (reg : Reg) (s : State) (e : Event) (sc : Script) :
    (handOver reg ({ s with script := sc }.emit e)).advance =
      { (handOver reg (s.emit e)).advance with script := sc } := by
  cases reg <;> rfl

/-- Other pending answers do not change what a micro-operation does beyond the word it reads (10_state.md R44); only
`RDB` puts that word into `ch`. -/
theorem runMicroOp_other_answers (op : MicroOp) (s : State) (sc : Script) :
    ∃ t u, runMicroOp op s = .next t ∧ runMicroOp op { s with script := sc } = .next u ∧ AgreeButAnswers t u ∧
      ((∀ r, op ≠ .rdb r) → u.ch = t.ch) := by
  cases op <;>
    simp only [runMicroOp, opWr_eq, opWrb_eq, opWrc_eq, opRdb_eq, opDly_eq, opWtc_eq, opLcw_eq, opRdm_eq, opBnp_eq,
      opLdc_eq, opLdg_eq, opJmp_eq, opStw_eq, Host.Outcome.next.injEq, exists_and_left, exists_eq_left', implies_true,
      and_true]
  case rdb reg =>
    refine ⟨?_, fun h => absurd rfl (h reg)⟩
    split
    · exact .of_read _ _
    · exact .of_script _ _
  case wtc reg mask =>
    split
    · exact ⟨.of_read _ _, fun _ => rfl⟩
    · exact ⟨.of_script _ _, fun _ => rfl⟩
  case rdm reg target =>
    split
    · exact ⟨.of_script _ _, fun _ => rfl⟩
    · split
      · exact ⟨.of_read _ _, fun _ => rfl⟩
      · exact ⟨.of_script _ _, fun _ => rfl⟩
  case wr | stw | ldg => split <;> exact ⟨.of_script _ _, fun _ => rfl⟩
  case wrb =>
    split
    · exact ⟨.of_script _ _, fun _ => rfl⟩
    · split <;> exact ⟨.of_script _ _, fun _ => rfl⟩
  case wrc reg =>
    split
    · exact ⟨.of_script _ _, fun _ => rfl⟩
    · split
      · rw [handOver_other_answers reg s _ sc]
        exact ⟨.of_script _ _, fun _ => rfl⟩
      · exact ⟨.of_script _ _, fun _ => rfl⟩
  case dly | lcw | bnp | ldc | jmp => exact .of_script _ _

/-- Only step 32 receives a byte. -/
theorem step_eq_of_rdb_entry {x : StepIx} {reg : Reg} (h : (decodeStep x).entry = some (.rdb reg)) : x = 32#6 := by
  have hx := encode_decodeStep x
  cases hi : decodeStep x with
  | sEcRecv => rw [hi] at hx; exact (Code.step.inj hx).symm
  | _ => rw [hi] at h; cases h

/-- Settles O34: a step runs an entry, or raises `F_STEP` whatever the answers. -/
theorem answersOnlyChooseTheNextStep : Obligations.AnswersOnlyChooseTheNextStep := by
  intro s t sc h
  have hf : s.fault = none := fault_none_of_step h
  rcases step_entry h with ⟨op, hop, hrun⟩ | ⟨hnone, rfl⟩
  · obtain ⟨t', u, ht, hu, hagree, hch⟩ := runMicroOp_other_answers op s sc
    obtain rfl := Host.Outcome.next.inj (ht.symm.trans hrun)
    have hstep : step { s with script := sc } = .next u := by
      rw [step_of_none (s := { s with script := sc }) hf, ← hu]
      exact exec_of_entry hop _
    refine ⟨u, hstep, hagree.fault, hagree.cfg, hagree.cw, hagree.si, hagree.mem, hagree.events, fun hx => ?_,
      hagree.writes⟩
    exact hch fun r hr => hx (step_eq_of_rdb_entry (hr ▸ hop))
  · refine ⟨State.raise { s with script := sc } (.fStep s.step), ?_,
      rfl, rfl, rfl, rfl, rfl, rfl, fun _ => rfl, rfl⟩
    rw [step_of_none (s := { s with script := sc }) hf]
    exact exec_of_no_entry (encode_decodeStep _) hnone _

/-! ## The buffer while the firmware owns it -/

theorem bufOwner_eq_firmware_iff (s : State) : s.bufOwner = .firmware ↔ s.step = 20#6 ∨ s.step = 21#6 := by
  unfold State.bufOwner
  split <;> simp [*]

theorem Inv.bufSpecified_of_firmware {s : State} (h : Inv s) (hown : s.bufOwner = .firmware) (i : Nat) :
    s.bufSpecified i = none := by
  have hmem : s.mem = [] := h.memUnspecified <| by
    rcases (bufOwner_eq_firmware_iff s).1 hown with hx | hx <;> simp [hx]
  simp [State.bufSpecified, Memory.readWord, Memory.read, hmem]

/-- The entries at the indices where the firmware owns the buffer. -/
theorem entry_of_firmware {s : State} (hown : s.bufOwner = .firmware) :
    (decodeStep s.step).entry = some (.wtc .mboxStatus (.param .mboxEmpty)) ∨
      (decodeStep s.step).entry = some (.rdm .mboxRead 20#6) := by
  rcases (bufOwner_eq_firmware_iff s).1 hown with hx | hx <;> rw [hx]
  · exact .inl rfl
  · exact .inr rfl

/-- Settles O56: by the invariant nothing of the buffer is specified, and both entries that can run only read. -/
theorem firmwareOwnsAnUntouchedBuffer : Obligations.FirmwareOwnsAnUntouchedBuffer := by
  constructor
  · exact fun s hreach hown => hreach.inv.bufSpecified_of_firmware hown
  · intro s t hown h
    rcases step_entry h with ⟨op, hop, hrun⟩ | ⟨-, rfl⟩
    · rcases entry_of_firmware hown with he | he <;> cases he.symm.trans hop
      · exact runMicroOp_memory (by simp) (by simp) hrun
      · exact runMicroOp_memory (by simp) (by simp) hrun
    · simp

end Sys2Proof.Machine
end

section
/-! PROOFS. Memory (20_memory.md): a buffer store byte by byte; the one access of each step; the request is complete when
it is sent, and sent at most once. -/

namespace Sys2Proof.Machine

/-! ## A buffer store -/

/-- Byte `j` of a stored word lies at offset `j`, the least significant first (20_memory.md R62). -/
theorem Memory.read_writeWord_byte (m : Memory) (a : Nat) (v : Word) {j : Nat} (hj : j < 4) :
    (m.writeWord a v).read (a + j) = some (v.extractLsb' (8 * j) 8) := by
  rw [Memory.read_writeWord]
  interval_cases j <;> simp

/-- A word store leaves every byte but its four alone. -/
theorem Memory.read_writeWord_ne (m : Memory) (v : Word) {a x : Nat} (h : x < a ∨ a + 4 ≤ x) :
    (m.writeWord a v).read x = m.read x := by
  rw [Memory.read_writeWord, if_neg (by omega), if_neg (by omega), if_neg (by omega), if_neg (by omega)]

/-- A row stores one of the nine words of the buffer (42_mailbox.md R142). -/
theorem stw_entry_index_lt {i : Instr} {index : Nat} {value : Const} (h : i.entry = some (.stw index value)) :
    index < 9 := by
  cases i with
  | sMbW0 | sMbW1 | sMbW2 | sMbW3 | sMbW4 | sMbW5 | sMbW6 | sMbW7 | sMbW8 => cases h; decide
  | _ => cases h

/-- Settles O26, by the laws of a word store; the address is that of one of nine words, so it does not wrap. -/
theorem bufferStoreIsLittleEndian : Obligations.BufferStoreIsLittleEndian := by
  intro s t i index value hop hmapped h
  rw [exec_of_entry hop, runMicroOp, opStw_eq, if_pos hmapped, Host.Outcome.next.injEq] at h
  subst h
  exact ⟨s.cfg.bufWordAddr_toNat (stw_entry_index_lt hop), fun _ hj => Memory.read_writeWord_byte _ _ _ hj,
    fun _ ha => Memory.read_writeWord_ne _ _ ha⟩

/-! ## The access of each step -/

/-- The events a micro-operation that raises nothing performs: one access of its kind at its own register or buffer word,
or none (20_memory.md R68). -/
inductive Performs (c : Cfg) : MicroOp → List Event → Prop where
  | wr (reg : Reg) (value : Const) (v : Word) : Performs c (.wr reg value) [.busW (c.addr reg) v]
  | wrb (reg : Reg) (v : Word) : Performs c (.wrb reg) [.busW (c.addr reg) v]
  | wrc (reg : Reg) (v : Word) : Performs c (.wrc reg) [.busW (c.addr reg) v]
  | rdb (reg : Reg) (v : Word) : Performs c (.rdb reg) [.busR (c.addr reg) v]
  | dly (count : Count) (n : Nat) : Performs c (.dly count) [.delay n]
  | wtc (reg : Reg) (mask : Const) (v : Word) : Performs c (.wtc reg mask) [.busR (c.addr reg) v]
  | stw (index : Nat) (value : Const) (v : Word) : Performs c (.stw index value) [.bufW index v]
  | lcw : Performs c .lcw []
  | rdm (reg : Reg) (target : StepIx) (v : Word) : Performs c (.rdm reg target) [.busR (c.addr reg) v]
  | bnp (target : StepIx) : Performs c (.bnp target) []
  | ldc (byte : Byte) : Performs c (.ldc byte) []
  | ldg (target : StepIx) : Performs c (.ldg target) []
  | jmp (target : StepIx) : Performs c (.jmp target) []

/-- The indices a micro-operation at `x` that raises nothing can lead to (30_encoding.md R102). -/
def successors (x : StepIx) : MicroOp → List StepIx
  | .wtc _ _ => [x, x + 1#6]
  | .rdm _ target | .bnp target | .ldg target => [x + 1#6, target]
  | .jmp target => [target]
  | _ => [x + 1#6]

/-- A micro-operation raises a fault and does nothing else (60_exceptions.md R231), or performs its access and goes to
one of its successors. -/
theorem runMicroOp_raises_or_performs {op : MicroOp} {s t : State} (h : runMicroOp op s = .next t) :
    (∃ f, t = s.raise f) ∨ t.fault = s.fault ∧ t.step ∈ successors s.step op ∧
      ∃ es, Performs s.cfg op es ∧ t.trace = s.trace ++ es := by
  cases op with
  | wr reg value | rdb reg | stw index value =>
    simp only [runMicroOp, opWr_eq, opRdb_eq, opStw_eq, Host.Outcome.next.injEq] at h
    subst h
    split
    · exact .inr ⟨rfl, List.mem_singleton_self _, _, by constructor, rfl⟩
    · exact .inl ⟨_, rfl⟩
  | wtc reg mask =>
    simp only [runMicroOp, opWtc_eq, Host.Outcome.next.injEq] at h
    subst h
    split
    · refine .inr ⟨rfl, ?_, _, by constructor, rfl⟩
      dsimp only
      split <;> simp [successors]
    · exact .inl ⟨_, rfl⟩
  | wrb reg =>
    simp only [runMicroOp, opWrb_eq, Host.Outcome.next.injEq] at h
    subst h
    split
    · exact .inl ⟨_, rfl⟩
    · split
      · exact .inr ⟨rfl, List.mem_singleton_self _, _, by constructor, rfl⟩
      · exact .inl ⟨_, rfl⟩
  | wrc reg =>
    simp only [runMicroOp, opWrc_eq, Host.Outcome.next.injEq] at h
    subst h
    split
    · exact .inl ⟨_, rfl⟩
    · next w _ =>
      split
      · exact .inr ⟨by simp, by simp [successors], _, .wrc reg w, by simp⟩
      · exact .inl ⟨_, rfl⟩
  | rdm reg target =>
    simp only [runMicroOp, opRdm_eq, Host.Outcome.next.injEq] at h
    subst h
    split
    · exact .inl ⟨_, rfl⟩
    · split
      · refine .inr ⟨rfl, ?_, _, by constructor, rfl⟩
        dsimp only
        split <;> simp [successors]
      · exact .inl ⟨_, rfl⟩
  | dly count =>
    simp only [runMicroOp, opDly_eq, Host.Outcome.next.injEq] at h
    subst h
    exact .inr ⟨rfl, List.mem_singleton_self _, _, by constructor, rfl⟩
  | lcw | ldc byte | jmp target =>
    simp only [runMicroOp, opLcw_eq, opLdc_eq, opJmp_eq, Host.Outcome.next.injEq] at h
    subst h
    exact .inr ⟨rfl, List.mem_singleton_self _, [], by constructor, (List.append_nil _).symm⟩
  | bnp target | ldg target =>
    simp only [runMicroOp, opBnp_eq, opLdg_eq, Host.Outcome.next.injEq] at h
    subst h
    refine .inr ⟨?_, ?_, [], by constructor, ?_⟩ <;> split <;> simp [successors]

/-- Settles O29: a row with an entry runs it, and one that raises nothing performs its access. -/
theorem eachStepAccessesOnce : Obligations.EachStepAccessesOnce := by
  intro i op s t hop h _ ht
  rw [exec_of_entry hop] at h
  rcases runMicroOp_raises_or_performs h with ⟨f, rfl⟩ | ⟨-, -, es, hes, htrace⟩
  · cases ht
  · cases hes with
    | wr | wrb | wrc | rdb | wtc | rdm | stw | dly => exact ⟨_, htrace⟩
    | lcw | bnp | ldc | ldg | jmp => exact htrace.trans (List.append_nil _)

/-! ## The request, complete and sent once -/

/-- The register a micro-operation writes. -/
def writtenReg : MicroOp → Option Reg
  | .wr reg _ | .wrb reg | .wrc reg => some reg
  | _ => none

theorem Performs.writesAt_length_le {c : Cfg} {op : MicroOp} {es : List Event} (h : Performs c op es) (a : Word) :
    (writesAt a es).length ≤ 1 := by
  cases h with
  | wr reg value v | wrb reg v | wrc reg v => simp only [writesAt]; split <;> simp
  | _ => simp [writesAt]

/-- A micro-operation that writes another register, or none, writes nothing at this one's address. -/
theorem Performs.writesAt_eq_nil {c : Cfg} {op : MicroOp} {es : List Event} (h : Performs c op es) {reg : Reg}
    (hreg : writtenReg op ≠ some reg) : writesAt (c.addr reg) es = [] := by
  cases h with
  | wr q _ v | wrb q v | wrc q v =>
    have hq : q ≠ reg := fun hq => hreg (congrArg some hq)
    simp [writesAt, c.addr_eq_iff, hq]
  | _ => rfl

/-- Only step 19 writes `MBOX_WRITE` (42_mailbox.md R156). -/
theorem step_eq_of_writes_mboxWrite : ∀ x : StepIx, ∀ op ∈ (decodeStep x).entry,
    writtenReg op = some .mboxWrite → x = 19#6 := by
  decide

/-- No step from index 19 on leads back to index 19 or before. -/
theorem lt_of_successor_le : ∀ x : StepIx, ∀ op ∈ (decodeStep x).entry, ∀ y ∈ successors x op,
    y.toNat ≤ 19 → x.toNat < 19 := by
  decide

/-- `MBOX_WRITE` is written at most once, and not before step 19 has been executed. -/
structure SentAtMostOnce (s : State) : Prop where
  once : (writesAt (s.cfg.addr .mboxWrite) s.trace).length ≤ 1
  notYet : s.step.toNat ≤ 19 → writesAt (s.cfg.addr .mboxWrite) s.trace = []

theorem SentAtMostOnce.initial (c : Cfg) (sc : Script) : SentAtMostOnce (State.initial c sc) :=
  ⟨Nat.zero_le _, fun _ => rfl⟩

theorem SentAtMostOnce.raise {s : State} (h : SentAtMostOnce s) (f : Fault) : SentAtMostOnce (s.raise f) :=
  ⟨h.once, h.notYet⟩

/-- A step that raises nothing writes `MBOX_WRITE` only at index 19, where it has not been written, and leaves the
indices up to 19 then. -/
theorem SentAtMostOnce.of_step {s t : State} (h : SentAtMostOnce s) (hst : step s = .next t) : SentAtMostOnce t := by
  rcases step_entry hst with ⟨op, hop, hrun⟩ | ⟨-, rfl⟩
  · rcases runMicroOp_raises_or_performs hrun with ⟨f, rfl⟩ | ⟨-, hnext, es, hes, htrace⟩
    · exact h.raise f
    have hcfg : t.cfg = s.cfg := (runMicroOp_answers hrun).1
    have hback : t.step.toNat ≤ 19 → s.step.toNat < 19 := lt_of_successor_le _ op hop _ hnext
    have hwrites : writesAt (t.cfg.addr .mboxWrite) t.trace =
        writesAt (s.cfg.addr .mboxWrite) s.trace ++ writesAt (s.cfg.addr .mboxWrite) es := by
      rw [hcfg, htrace, writesAt_append]
    by_cases hx : s.step = 19#6
    · rw [h.notYet (by rw [hx]; decide), List.nil_append] at hwrites
      refine ⟨hwrites ▸ hes.writesAt_length_le _, fun ht => absurd (hback ht) ?_⟩
      rw [hx]
      decide
    · rw [hes.writesAt_eq_nil fun hw => hx (step_eq_of_writes_mboxWrite _ op hop hw), List.append_nil] at hwrites
      exact ⟨hwrites ▸ h.once, fun ht => hwrites.trans (h.notYet (hback ht).le)⟩
  · exact h.raise _

theorem Reachable.sentAtMostOnce {s : State} (h : Reachable s) : SentAtMostOnce s := by
  obtain ⟨c, sc, hreach⟩ := h
  exact hreach.keeps (SentAtMostOnce.initial c sc) fun _ _ => SentAtMostOnce.of_step

/-- Settles O55: by the invariant the nine words are there at step 19, and no run writes `MBOX_WRITE` twice. -/
theorem requestCompleteAndSentOnce : Obligations.RequestCompleteAndSentOnce := by
  intro s hs
  refine ⟨fun hx i hi => ?_, hs.sentAtMostOnce.once⟩
  have hx' : s.step.toNat = 19 := congrArg BitVec.toNat hx
  exact hs.inv.memRequest (by omega) i hi (by omega)

end Sys2Proof.Machine
end

section
/-! PROOFS. Encoding (30_encoding.md): decode and encode are inverse to each other; the microprogram and the composites
are those of the table; a step runs its row; where each step goes; what the rows without an entry do. -/

namespace Sys2Proof

open Machine

/-! ## Decoding and encoding -/

/-- A row encoded as a step index is found there (30_encoding.md R91, R110). -/
theorem decode_encode_of_step {i : Instr} {x : StepIx} (h : encode i = .step x) : decode (encode i) = .ok i := by
  rw [h, decode, decodeStep_of_encode h]

/-- A word whose bits 3:0 are 8 is the channel word of its bits 31:4 (30_encoding.md R96). -/
theorem decodeChannel_append (a : BitVec 28) : decodeChannel (a ++ 8#4) = .ok (.channelWord a) := by
  rw [decodeChannel, BitVec.extractLsb'_append_eq_right, if_pos rfl, BitVec.extractLsb'_append_eq_left]

theorem decode_encode (i : Instr) : decode (encode i) = .ok i := by
  cases i with
  | channelWord a => exact decodeChannel_append a
  | mboxWord0 | mboxWord1 | mboxWord2 | mboxWord3 | mboxWord4 | mboxWord5 | mboxWord6 r | mboxWord7 | mboxWord8 => rfl
  | _ => exact decode_encode_of_step rfl

/-- Settles O2: step rows by the table lookup, data formats by their fixed bits; the premise is not needed. -/
theorem decodeOfEncodeIsTheRow : Obligations.DecodeOfEncodeIsTheRow := fun i _ => decode_encode i

/-- A word is the one put together of its bits 31:4 and its bits 3:0. -/
theorem eq_append_low4 (w : Word) : w = w.extractLsb' 4 28 ++ w.extractLsb' 0 4 :=
  BitVec.extractLsb'_eq_self.symm.trans
    (BitVec.extractLsb'_append_extractLsb'_eq_extractLsb' (start₁ := 0) (len₁ := 4) (len₂ := 28) rfl).symm

theorem encode_of_decodeChannel {w : Word} {i : Instr} (h : decodeChannel w = .ok i) : encode i = .channel w := by
  unfold decodeChannel at h
  split at h
  · next hlow =>
    cases h
    rw [encode, ← hlow, ← eq_append_low4]
  · cases h

theorem encode_of_requestWord {k : Fin 9} {w expected : Word} {row i : Instr} (hrow : encode row = .message k expected)
    (h : requestWord k w expected row = .ok i) : encode i = .message k w := by
  unfold requestWord at h
  split at h
  · next hw =>
    cases h
    rw [hrow, hw]
  · cases h

theorem encode_of_decodeMessage {k : Fin 9} {w : Word} {i : Instr} (h : decodeMessage k w = .ok i) :
    encode i = .message k w := by
  match k with
  | 0 | 1 | 2 | 3 | 4 | 5 | 7 | 8 => exact encode_of_requestWord rfl h
  | 6 => cases h; rfl

/-- Settles O3, place by place: a step index is that of the row found there, a word is accepted only where it is the
word of the row. -/
theorem encodeOfDecodeIsTheCode : Obligations.EncodeOfDecodeIsTheCode := by
  intro c i h
  cases c with
  | step x => cases h; exact encode_decodeStep x
  | channel w => exact encode_of_decodeChannel h
  | message k w => exact encode_of_decodeMessage h

/-- Settles O1: sixteen of the words are the encodings of their rows, the other two are in no row's range. -/
theorem decodeWrittenWords : Obligations.DecodeWrittenWords :=
  ⟨decode_encode .sCrOff, decode_encode .sDlyA, decode_encode .sNeg, decode_encode .sMbW2, decode_encode .sMbCw,
    decode_encode .sMbRecv, decode_encode .sCrOn, decode_encode .sGrSend, decode_encode .sEcRecv, decode_encode .sEcNl,
    decode_encode .sEcLoop, decode_encode .reserved39, decode_encode (.reserved40To47 0b101#3),
    decode_encode (.reserved48To63 0b0110#4), decode_encode (.channelWord 0x0000100#28), rfl,
    decode_encode .mboxWord2, rfl⟩

/-! ## The channel word and the request -/

/-- The mask `~0xF` keeps bits 31:4, and the channel number fills bits 3:0 (30_encoding.md R96). -/
theorem channelWordOf_eq_append (a : Word) : channelWordOf a = a.extractLsb' 4 28 ++ 8#4 :=
  calc channelWordOf a
    _ = ((a.extractLsb' 4 28 ++ a.extractLsb' 0 4) &&& (BitVec.allOnes 28 ++ 0#4)) ||| (0#28 ++ 8#4) :=
      congrArg (fun b => b &&& 0xFFFFFFF0#32 ||| 8#32) (eq_append_low4 a)
    _ = a.extractLsb' 4 28 ++ 8#4 := by
      rw [BitVec.and_append, BitVec.or_append, BitVec.and_allOnes, BitVec.and_zero, BitVec.or_zero, BitVec.zero_or]

/-- Settles O39: the fields are those of the two parts put together. -/
theorem channelWordFields : Obligations.ChannelWordFields := by
  intro a
  rw [channelWordOf_eq_append]
  exact ⟨BitVec.extractLsb'_append_eq_right, BitVec.extractLsb'_append_eq_left, rfl⟩

/-- The message rows a configuration's request is made of (30_encoding.md R97). -/
def messageRows (c : Cfg) : List Instr :=
  [.mboxWord0, .mboxWord1, .mboxWord2, .mboxWord3, .mboxWord4, .mboxWord5, .mboxWord6 c.params.uartClockHz, .mboxWord7,
   .mboxWord8]

theorem map_requestWordAt (c : Cfg) :
    (List.finRange 9).map (fun k => Code.message k (requestWordAt c k.val)) = (messageRows c).map encode := rfl

/-- Settles O5: the words are the encodings of the rows. -/
theorem requestAndChannelWordsAreTheFormats : Obligations.RequestAndChannelWordsAreTheFormats := by
  intro c
  constructor
  · calc (List.finRange 9).map (fun k => decode (.message k (requestWordAt c k.val)))
      _ = ((messageRows c).map encode).map decode := by rw [← map_requestWordAt, List.map_map]; rfl
      _ = (messageRows c).map .ok := by simp [decode_encode]
  · rw [channelWordOf_eq_append]
    exact decode_encode (.channelWord _)

/-! ## The microprogram -/

/-- The table lookup, index by index, gives the step rows in order (30_encoding.md R91). -/
theorem map_decodeStep_range : (List.range 39).map (fun n => decodeStep (BitVec.ofNat 6 n)) = stepRows := by
  decide

/-- Settles O4: the entries of the step rows, in order. -/
theorem microprogramTable : Obligations.MicroprogramTable :=
  congrArg (List.map Instr.entry) map_decodeStep_range

/-- The operands of every entry are such as its format allows (30_encoding.md R92, R93). -/
theorem wf_of_entry {i : Instr} {op : MicroOp} (h : i.entry = some op) : op.wf = true := by
  cases i <;> cases h <;> rfl

theorem wf_of_mem_entriesOf {rows : List Instr} {op : MicroOp} (h : op ∈ entriesOf rows) : op.wf = true := by
  obtain ⟨i, -, hi⟩ := List.mem_filterMap.1 h
  exact wf_of_entry hi

/-- Settles O6: each composite is the list of the entries at its place. -/
theorem compositesStandInLine : Obligations.CompositesStandInLine :=
  ⟨rfl, rfl, rfl, rfl, rfl, rfl, rfl, fun _ => wf_of_mem_entriesOf⟩

/-! ## The row a step runs and where it goes -/

/-- Settles O7: the index a row is encoded as decodes to the row. -/
theorem stepRunsTheFetchedRow : Obligations.StepRunsTheFetchedRow := by
  intro i s hcode hfault
  rw [step_of_none hfault, decodeStep_of_encode hcode]

/-- Settles O8: the arm of a step row unfolds to the operation of its entry's kind. -/
theorem rowRunsItsEntry : Obligations.RowRunsItsEntry := fun _ _ s hop => exec_of_entry hop s

/-- Where a micro-operation begun in `s` goes that raises nothing and ends in `t`, by its kind (30_encoding.md R102). -/
def goesTo (s t : State) : MicroOp → StepIx
  | .wtc _ mask => afterPoll s.step (mask.eval s.cfg.params) t
  | .rdm _ target => if t.rd = s.cw then s.step + 1#6 else target
  | .bnp target => if s.cfg.profile.requiresClockNegotiation then s.step + 1#6 else target
  | .ldg target => if s.si = s.cfg.greetingLen then target else s.step + 1#6
  | .jmp target => target
  | _ => s.step + 1#6

theorem runMicroOp_step {op : MicroOp} {s t : State} (h : runMicroOp op s = .next t) (ht : t.fault = none) :
    t.step = goesTo s t op := by
  cases op with
  | wr reg value | rdb reg | wtc reg mask | stw index value =>
    simp only [runMicroOp, opWr_eq, opRdb_eq, opWtc_eq, opStw_eq, Host.Outcome.next.injEq] at h
    subst h
    split at ht
    · next hmapped => simp [hmapped, goesTo, afterPoll]
    · cases ht
  | wrb reg | wrc reg | rdm reg target =>
    simp only [runMicroOp, opWrb_eq, opWrc_eq, opRdm_eq, Host.Outcome.next.injEq] at h
    subst h
    split at ht
    · cases ht
    · next hlatch =>
      split at ht
      · next hmapped => simp [hlatch, hmapped, goesTo]
      · cases ht
  | dly count | lcw | bnp target | ldc byte | jmp target =>
    simp only [runMicroOp, opDly_eq, opLcw_eq, opBnp_eq, opLdc_eq, opJmp_eq, Host.Outcome.next.injEq] at h
    subst h
    rfl
  | ldg target =>
    simp only [runMicroOp, opLdg_eq, Host.Outcome.next.injEq] at h
    subst h
    exact apply_ite State.step _ _ _

/-- The column `next` of the table is the kind's own rule, applied at each of the 39 indices. -/
theorem nextColumn_eq_goesTo {s t : State} {op : MicroOp} (hop : (decodeStep s.step).entry = some op) :
    nextColumn s t = goesTo s t op := by
  have hx := encode_decodeStep s.step
  cases hi : decodeStep s.step with
  | reserved39 | reserved40To47 x | reserved48To63 x | channelWord a => rw [hi] at hop; cases hop
  | mboxWord0 | mboxWord1 | mboxWord2 | mboxWord3 | mboxWord4 | mboxWord5 | mboxWord6 r | mboxWord7 | mboxWord8 =>
    rw [hi] at hop; cases hop
  | _ =>
    rw [hi] at hop hx
    cases hop
    simp [nextColumn, goesTo, ← Code.step.inj hx, Const.eval, Param.eval]

/-- Settles O30: a step that raises nothing runs an entry, which goes where its kind says. -/
theorem controlTransfersAreTheTable : Obligations.ControlTransfersAreTheTable := by
  intro s t hx h ht
  rcases step_entry h with ⟨op, hop, hrun⟩ | ⟨hnone, -⟩
  · rw [runMicroOp_step hrun ht, nextColumn_eq_goesTo hop]
  · exact absurd hnone (entry_isSome_of_le hx)

/-! ## The rows without an entry -/

/-- Settles O23: a row that is a step index without an entry raises `F_STEP` with the index. -/
theorem reservedRowsRaiseStepFault : Obligations.ReservedRowsRaiseStepFault := fun s =>
  ⟨exec_of_no_entry rfl rfl s, fun _ => exec_of_no_entry rfl rfl s, fun _ => exec_of_no_entry rfl rfl s⟩

/-- A store of the buffer whose four bytes are mapped (42_mailbox.md R142). -/
theorem opStw_of_mapped {index : Nat} {s : State} (h : s.cfg.isMappedWord (bufWordAddr s.cfg.bufAddr index) = true)
    (value : Word) : opStw index value s = .next { s with
      mem := s.mem.writeWord (bufWordAddr s.cfg.bufAddr index).toNat value,
      trace := s.trace ++ [.bufW index value], step := s.step + 1#6 } := by
  rw [opStw_eq, if_pos h]

/-- A store of the buffer with a byte outside `MAPPED` (42_mailbox.md R142). -/
theorem opStw_of_not_mapped {index : Nat} {s : State}
    (h : s.cfg.isMappedWord (bufWordAddr s.cfg.bufAddr index) = false) (value : Word) :
    opStw index value s = .next (s.raise (.fBus (bufWordAddr s.cfg.bufAddr index) .write)) := by
  rw [opStw_eq, if_neg (by simp [h])]

/-- Settles O25: each message row is the store of its word in its place, the channel word the load of `cw`. -/
theorem dataWordsAreTransferred : Obligations.DataWordsAreTransferred := by
  refine fun s => ⟨fun r row hrow => ?_, fun _ => opLoadChannel_eq _ s⟩
  have hstore : exec row.1 s = opStw row.2.1 row.2.2 s := by fin_cases hrow <;> rfl
  rw [hstore]
  exact ⟨fun h => opStw_of_mapped h _, fun h => opStw_of_not_mapped h _⟩

end Sys2Proof
end

section
/-! PROOFS. Bus accesses (40_mmio_primitives.md): each of the kinds `WR`, `WRB`, `WRC` and `RDB` makes its one access and goes
on, or faults before it; in a run the latch that a write sends is written. -/

namespace Sys2Proof

open Machine

/-- Settles O9: the ten rows are the one operation `WR`, which looks up its register in `MAPPED`. -/
theorem wrWritesItsConstant : Obligations.WrWritesItsConstant := by
  intro s row hrow
  have hwr : exec row.1 s = opWr row.2.1 row.2.2 s := by fin_cases hrow <;> rfl
  rw [hwr, opWr_eq]
  constructor
  · intro hmapped
    rw [if_pos hmapped]
  · intro hmapped
    rw [if_neg (Bool.eq_false_iff.1 hmapped)]
    rfl

/-- `WRB` stands only at indices where the invariant has the byte latch written (45_echo_loop.md R223). -/
theorem Machine.Inv.ch_written_of_wrb {s : State} (h : Inv s) {i : Instr} {reg : Reg} (hop : i.entry = some (.wrb reg))
    (hcode : encode i = .step s.step) : s.ch ≠ .unwritten := by
  rw [← decodeStep_of_encode hcode] at hop
  have hfit := entry_fits s.step _ hop
  simp only [fits, decide_eq_true_eq] at hfit
  exact h.chWritten hfit.1

/-- Settles O10: the three rows are `WRB` on `UART0_DR`, which reads the latch first; the invariant has it written there. -/
theorem wrbSendsTheByteLatch : Obligations.WrbSendsTheByteLatch := by
  intro s i hi
  have hop : i.entry = some (.wrb .uart0Dr) := by fin_cases hi <;> rfl
  rw [exec_of_entry hop, runMicroOp, opWrb_eq]
  refine ⟨fun b hch hmapped => ?_, fun b hch hmapped => ?_, fun hch => ?_, fun h => h.ch_written_of_wrb hop⟩
  · simp only [hch, if_pos hmapped, zext32_eq]
  · simp only [hch, if_neg (Bool.eq_false_iff.1 hmapped), State.raise]
  · simp only [hch, State.raise]

/-- In a run `cw` holds the channel word where it is read, and the channel is 8 (10_state.md R25, 30_encoding.md R96). -/
theorem Machine.Inv.cw_channel {s : State} (h : Inv s) (hx : NeedsCw s.step) :
    ∃ w, s.cw = .holds w ∧ w.extractLsb' 0 4 = 8#4 := by
  cases hcw : s.cw with
  | unwritten => exact absurd hcw (h.needsCw hx)
  | holds w =>
    refine ⟨w, rfl, ?_⟩
    rw [h.cwValue w hcw]
    exact (channelWordFields _).1

/-- Settles O11: `WRC` reads `cw` first, and its write of `MBOX_WRITE` hands the buffer over. -/
theorem wrcSendsTheChannelWord : Obligations.WrcSendsTheChannelWord := by
  intro s
  have hwrc : exec .sMbSend s = opWrc .mboxWrite s := rfl
  rw [hwrc, opWrc_eq]
  refine ⟨fun w hcw hmapped => ?_, fun w hcw hmapped => ?_, fun hcw => ?_, fun h hx => h.cw_channel (by rw [hx]; decide)⟩
  · simp only [hcw, if_pos hmapped]
    rw [← hcw]
    rfl
  · simp only [hcw, if_neg (Bool.eq_false_iff.1 hmapped), State.raise]
  · simp only [hcw, State.raise]

/-- Settles O12: `RDB` looks up `UART0_DR` in `MAPPED` and takes the environment's answer. -/
theorem rdbKeepsTheLowByte : Obligations.RdbKeepsTheLowByte := by
  intro s
  have hrdb : exec .sEcRecv s = opRdb .uart0Dr s := rfl
  rw [hrdb, opRdb_eq, ← low8_eq]
  constructor
  · intro hmapped
    rw [if_pos hmapped]
  · intro hmapped
    rw [if_neg (Bool.eq_false_iff.1 hmapped)]
    rfl

end Sys2Proof
end

section
/-! PROOFS. Waiting (41_delay_and_wait.md): a delay is one event; a poll reads its register once per step and goes on exactly
on a clear bit; a poll whose bit is never clear repeats for ever. -/

namespace Sys2Proof

open Machine

/-- Settles O13: both rows are the operation `DLY` on `SETTLE_COUNT`. -/
theorem dlyRecordsTheSettleCount : Obligations.DlyRecordsTheSettleCount := by
  intro s i hi
  have hdly : exec i s = opDly s.cfg.params.settleCount s := by fin_cases hi <;> rfl
  rw [hdly, opDly_eq]

/-- Settles O14: the six rows are the one operation `WTC`, which looks up its register in `MAPPED` before it reads. -/
theorem wtcAdvancesOnAClearBit : Obligations.WtcAdvancesOnAClearBit := by
  intro s row hrow
  have hwtc : exec row.1 s = opWtc row.2.1 row.2.2 s := by fin_cases hrow <;> rfl
  rw [hwtc, opWtc_eq]
  constructor
  · intro hmapped
    rw [if_pos hmapped]
  · intro hmapped
    rw [if_neg (Bool.eq_false_iff.1 hmapped)]
    rfl

/-- One round of a poll that is answered with its bit set by an environment that never changes its answer: `rd` and the
trace record the read, and the next step is the same poll with the same answer to come (41_delay_and_wait.md R132). -/
theorem Machine.step_of_busy_poll {s : State} {reg : Reg} {mask : Const} {w : Word}
    (hop : (decodeStep s.step).entry = some (.wtc reg mask)) (hf : s.fault = none)
    (hmapped : s.cfg.isMapped (s.cfg.addr reg) = true) (ha : AlwaysAnswers s.script (s.cfg.addr reg) w)
    (hbusy : w &&& mask.eval s.cfg.params ≠ 0#32) :
    step s = .next { s with rd := .holds w, trace := s.trace ++ [.busR (s.cfg.addr reg) w] } := by
  obtain ⟨hanswer, hpop⟩ := ha
  have henv : s.envAnswer (s.cfg.addr reg) = w := by simp [State.envAnswer, hanswer]
  rw [step_of_waiting (exec_of_entry hop) hf hmapped ⟨_, _, _, rfl⟩, afterRead, henv, hpop, if_neg hbusy]

/-- Settles O57, by induction on the number of rounds: after each of them the premises hold again. -/
theorem pollHasNoTimeout : Obligations.PollHasNoTimeout := by
  intro n
  induction n with
  | zero =>
    intro s reg mask w hop hf hmapped ha hbusy
    rw [run_succ (step_of_busy_poll hop hf hmapped ha hbusy)]
    rfl
  | succ n ih =>
    intro s reg mask w hop hf hmapped ha hbusy
    have hrest := ih { s with rd := .holds w, trace := s.trace ++ [.busR (s.cfg.addr reg) w] } reg mask w
      hop hf hmapped ha hbusy
    rw [run_succ (step_of_busy_poll hop hf hmapped ha hbusy), hrest, List.append_assoc, List.singleton_append,
      ← List.replicate_succ]

end Sys2Proof
end

section
/-! PROOFS. The mailbox (42_mailbox.md): the stores of the request, the channel word and the matching read; the trace of an
exchange, whatever the environment answers; a run without clock negotiation leaves the mailbox alone. -/

namespace Sys2Proof

open Machine

/-! ## The operations of the exchange -/

/-- Settles O15: the nine rows are the one operation `STW`, which looks up the four bytes in `MAPPED`. -/
theorem stwStoresARequestWord : Obligations.StwStoresARequestWord := by
  refine ⟨fun s row hrow => ?_, fun n v hn => decide_eq_false (Nat.not_lt.2 hn)⟩
  have hstw : exec row.1 s = opStw row.2.1 row.2.2 s := by fin_cases hrow <;> rfl
  rw [hstw]
  exact ⟨fun h => opStw_of_mapped h _, fun h => opStw_of_not_mapped h _⟩

/-- On an aligned buffer the mask changes nothing (42_mailbox.md R143, 00_scope.md R14 b). -/
theorem Cfg.channelWordOf_bufAddr (c : Cfg) : channelWordOf c.bufAddr = c.bufAddr + 8#32 := by
  apply BitVec.eq_of_toNat_eq
  have haligned := c.bufAddr_mod
  have hlt := c.bufAddr_le
  rw [channelWordOf_eq_append, field_append_eight_toNat, BitVec.extractLsb'_toNat, Nat.shiftRight_eq_div_pow,
    BitVec.toNat_add, BitVec.toNat_ofNat]
  omega

/-- Settles O16: the row is the operation `LCW`, and a well-formed configuration has an aligned buffer. -/
theorem lcwComputesTheChannelWord : Obligations.LcwComputesTheChannelWord :=
  fun s => ⟨opLcw_eq s, s.cfg.channelWordOf_bufAddr⟩

/-- Settles O17: `RDM` reads `cw` first, which the invariant has written at step 21, and then looks up its register in
`MAPPED`. -/
theorem rdmMatchesTheChannelWord : Obligations.RdmMatchesTheChannelWord := by
  intro s
  have hrdm : exec .sMbRecv s = opRdm .mboxRead 20#6 s := rfl
  rw [hrdm, opRdm_eq]
  refine ⟨fun w hcw hmapped => ?_, fun w hcw hmapped => ?_, fun hcw => ?_, fun h hx => h.needsCw (by rw [hx]; decide)⟩
  · simp only [hcw, if_pos hmapped]
  · simp only [hcw, if_neg (Bool.eq_false_iff.1 hmapped), State.raise]
  · simp only [hcw, State.raise]

end Sys2Proof

namespace Sys2Proof.Machine

/-! ## A run without clock negotiation -/

/-- The indices of the exchange (42_mailbox.md R159). -/
abbrev InExchange (x : StepIx) : Prop := 8 ≤ x.toNat ∧ x.toNat ≤ 21

/-- The registers of the mailbox (10_state.md R31). -/
def mailboxRegs : List Reg := [.mboxRead, .mboxStatus, .mboxWrite]

/-- The event is a store to the buffer or an access of a mailbox register. -/
def ConcernsMailbox (c : Cfg) : Event → Prop
  | .bufW _ _ => True
  | .busR a _ | .busW a _ => ∃ reg ∈ mailboxRegs, c.addr reg = a
  | .delay _ => False

/-- The entry stores to the buffer or accesses a mailbox register. -/
def usesMailbox : MicroOp → Bool
  | .stw _ _ => true
  | .wr reg _ | .wrb reg | .wrc reg | .rdb reg | .wtc reg _ | .rdm reg _ => decide (reg ∈ mailboxRegs)
  | _ => false

/-- The thirteen registers have thirteen addresses, so an entry that uses another register leaves the mailbox alone. -/
theorem Performs.not_concernsMailbox {c : Cfg} {op : MicroOp} {es : List Event} (h : Performs c op es)
    (hop : usesMailbox op = false) : ∀ e ∈ es, ¬ ConcernsMailbox c e := by
  cases h with
  | stw => cases hop
  | lcw | bnp | ldc | ldg | jmp => exact nofun
  | dly => simp [ConcernsMailbox]
  | wr | wrb | wrc | rdb | wtc | rdm =>
    simpa [ConcernsMailbox, c.addr_eq_iff, usesMailbox] using hop

/-- Only entries of the exchange use the mailbox. -/
theorem inExchange_of_usesMailbox : ∀ x : StepIx, ∀ op ∈ (decodeStep x).entry, usesMailbox op = true → InExchange x := by
  decide

/-- The one way into the exchange is from step 7 (43_uart_init.md R171). -/
theorem eq_seven_of_enters_exchange : ∀ x : StepIx, ¬ InExchange x → ∀ op ∈ (decodeStep x).entry,
    ∀ y ∈ successors x op, InExchange y → x = 7#6 := by
  decide

/-- Outside the exchange, and no event of the mailbox has happened. -/
structure MailboxUntouched (s : State) : Prop where
  outside : ¬ InExchange s.step
  events : ∀ e ∈ s.trace, ¬ ConcernsMailbox s.cfg e

/-- Without clock negotiation step 7 goes to step 22, so no step enters the exchange, and outside of it none uses the
mailbox. -/
theorem MailboxUntouched.of_step {s t : State} (hneg : s.cfg.profile.requiresClockNegotiation = false)
    (h : MailboxUntouched s) (hst : step s = .next t) : MailboxUntouched t := by
  rcases step_entry hst with ⟨op, hop, hrun⟩ | ⟨-, rfl⟩
  · rcases runMicroOp_raises_or_performs hrun with ⟨f, rfl⟩ | ⟨hfault, hnext, es, hes, htrace⟩
    · exact ⟨h.outside, h.events⟩
    have hcfg : t.cfg = s.cfg := (runMicroOp_answers hrun).1
    have hunused : usesMailbox op = false :=
      Bool.eq_false_iff.2 fun huse => h.outside (inExchange_of_usesMailbox _ op hop huse)
    constructor
    · intro hin
      have hx := eq_seven_of_enters_exchange _ h.outside op hop _ hnext hin
      rw [hx] at hop
      cases hop
      have hto : t.step = 22#6 := by
        simp [runMicroOp_step hrun (hfault.trans (fault_none_of_step hst)), goesTo, hneg]
      rw [hto] at hin
      exact absurd hin (by decide)
    · intro e he
      rw [hcfg]
      rcases List.mem_append.1 (htrace ▸ he) with he | he
      · exact h.events e he
      · exact hes.not_concernsMailbox hunused e he
  · exact ⟨h.outside, h.events⟩

/-- No step changes the configuration (00_scope.md R8). -/
theorem cfg_of_step {s t : State} (h : step s = .next t) : t.cfg = s.cfg := by
  rw [step_of_none (fault_none_of_step h)] at h
  exact (configurationStaysAndTraceGrows _ _ _ h).1

theorem Reachable.mailboxUntouched {s : State} (h : Reachable s)
    (hneg : s.cfg.profile.requiresClockNegotiation = false) : MailboxUntouched s := by
  obtain ⟨c, sc, hreach⟩ := h
  have hkeeps : s.cfg = c ∧ (c.profile.requiresClockNegotiation = false → MailboxUntouched s) := by
    refine hreach.keeps
      (p := fun u => u.cfg = c ∧ (c.profile.requiresClockNegotiation = false → MailboxUntouched u))
      ⟨rfl, fun _ => ⟨by simp, nofun⟩⟩ fun u v ⟨hu, hun⟩ huv => ?_
    exact ⟨(cfg_of_step huv).trans hu, fun hc => (hun hc).of_step (hu ▸ hc) huv⟩
  exact hkeeps.2 (hkeeps.1 ▸ hneg)

/-- Settles O54: by the invariant that such a run stays outside the exchange. -/
theorem noMailboxWithoutNegotiation : Obligations.NoMailboxWithoutNegotiation := by
  intro s hs hneg
  have h := hs.mailboxUntouched hneg
  have houtside := h.outside
  exact ⟨by omega, fun n v hv => h.events _ hv trivial, fun reg hreg v =>
    ⟨fun hv => h.events _ hv ⟨reg, hreg, rfl⟩, fun hv => h.events _ hv ⟨reg, hreg, rfl⟩⟩⟩

/-! ## The trace of an exchange -/

/-- A poll that ends at once (41_delay_and_wait.md R132). -/
theorem PollTrace.clear {c : Cfg} {reg : Reg} {mask v : Word} (hv : v &&& mask = 0#32) :
    PollTrace c reg mask [.busR (c.addr reg) v] :=
  ⟨[], v, nofun, hv, rfl⟩

/-- One more round before a poll that ends (41_delay_and_wait.md R132). -/
theorem PollTrace.busy {c : Cfg} {reg : Reg} {mask v : Word} {poll : List Event} (hv : v &&& mask ≠ 0#32)
    (h : PollTrace c reg mask poll) : PollTrace c reg mask (.busR (c.addr reg) v :: poll) := by
  obtain ⟨busy, w, hbusy, hw, rfl⟩ := h
  exact ⟨v :: busy, w, List.forall_mem_cons.2 ⟨hv, hbusy⟩, hw, rfl⟩

theorem RecvTrace.busy {c : Cfg} {v : Word} {recv : List Event} (hv : v &&& c.params.mboxEmpty ≠ 0#32)
    (h : RecvTrace c recv) : RecvTrace c (.busR (c.addr .mboxStatus) v :: recv) := by
  cases h with
  | matched hpoll => exact .matched (hpoll.busy hv)
  | stale hpoll hr hrest => exact .stale (hpoll.busy hv) hr hrest

/-- From the read of `MBOX_READ` on: it matches, or another round follows. -/
inductive ReadTrace (c : Cfg) : List Event → Prop where
  | matched : ReadTrace c [.busR (c.addr .mboxRead) (channelWordOf c.bufAddr)]
  | stale {r : Word} {rest : List Event} : r ≠ channelWordOf c.bufAddr → RecvTrace c rest →
      ReadTrace c (.busR (c.addr .mboxRead) r :: rest)

theorem ReadTrace.clear {c : Cfg} {v : Word} {rest : List Event} (hv : v &&& c.params.mboxEmpty = 0#32)
    (h : ReadTrace c rest) : RecvTrace c (.busR (c.addr .mboxStatus) v :: rest) := by
  cases h with
  | matched => exact .matched (.clear hv)
  | stale hr hrest => exact .stale (.clear hv) hr hrest

/-- From the write of the channel word on. -/
def SendTrace (c : Cfg) (m : List Event) : Prop :=
  ∃ recv, RecvTrace c recv ∧ m = .busW (c.addr .mboxWrite) (channelWordOf c.bufAddr) :: recv

/-- From the poll of the full flag on. -/
def FullPollTrace (c : Cfg) (m : List Event) : Prop :=
  ∃ poll rest, PollTrace c .mboxStatus c.params.mboxFull poll ∧ SendTrace c rest ∧ m = poll ++ rest

theorem FullPollTrace.busy {c : Cfg} {v : Word} {m : List Event} (hv : v &&& c.params.mboxFull ≠ 0#32)
    (h : FullPollTrace c m) : FullPollTrace c (.busR (c.addr .mboxStatus) v :: m) := by
  obtain ⟨poll, rest, hpoll, hrest, rfl⟩ := h
  exact ⟨_, rest, hpoll.busy hv, hrest, rfl⟩

theorem SendTrace.clear {c : Cfg} {v : Word} {m : List Event} (hv : v &&& c.params.mboxFull = 0#32)
    (h : SendTrace c m) : FullPollTrace c (.busR (c.addr .mboxStatus) v :: m) :=
  ⟨_, m, .clear hv, h, rfl⟩

/-- The traces an exchange that has come to index `x` may still make until it ends at step 22. -/
def RestOfExchange (c : Cfg) (x : StepIx) (m : List Event) : Prop :=
  match x.toNat with
  | 18 => FullPollTrace c m
  | 19 => SendTrace c m
  | 20 => RecvTrace c m
  | 21 => ReadTrace c m
  | 22 => m = []
  | n => ∃ rest, FullPollTrace c rest ∧ m = (requestEvents c).drop (n - 8) ++ rest

theorem MboxTrace.of_rest {c : Cfg} {m : List Event} (h : RestOfExchange c 8#6 m) : MboxTrace c m := by
  obtain ⟨_, ⟨poll, _, hpoll, ⟨recv, hrecv, rfl⟩, rfl⟩, rfl⟩ := h
  exact ⟨poll, recv, hpoll, hrecv, (List.append_assoc _ _ _).symm⟩

/-- Step `i + 8` stores word `i` (42_mailbox.md R145 to R153). -/
theorem RestOfExchange.store {c : Cfg} {x : StepIx} {i : Nat} (hi : i < 9) (hx : x.toNat = i + 8) {m : List Event}
    (h : RestOfExchange c (x + 1#6) m) : RestOfExchange c x (.bufW i (requestWordAt c i) :: m) := by
  obtain rfl : x = BitVec.ofNat 6 (i + 8) := BitVec.eq_of_toNat_eq (by rw [hx, BitVec.toNat_ofNat]; omega)
  obtain ⟨rest, hrest, rfl⟩ : ∃ rest, FullPollTrace c rest ∧ m = (requestEvents c).drop (i + 1) ++ rest := by
    interval_cases i <;> exact h
  have hdrop : (requestEvents c).drop i = .bufW i (requestWordAt c i) :: (requestEvents c).drop (i + 1) := by
    rw [List.drop_eq_getElem_cons (by simpa [requestEvents] using hi)]
    simp [requestEvents]
  rw [← List.cons_append, ← hdrop]
  interval_cases i <;> exact ⟨rest, hrest, rfl⟩

/-- No word of the buffer is specified once its 36 bytes are forgotten (10_state.md R48). -/
theorem readWord_forget_buffer (c : Cfg) (m : Memory) {i : Nat} (hi : i < 9) :
    (m.forget c.bufAddr.toNat Config.mboxBytes).readWord (bufWordAddr c.bufAddr i).toNat = none := by
  have hfirst : (m.forget c.bufAddr.toNat Config.mboxBytes).read (bufWordAddr c.bufAddr i).toNat = none := by
    rw [Memory.read_forget, c.bufWordAddr_toNat hi]
    exact if_pos (by simp only [Config.mboxBytes]; omega)
  simp [Memory.readWord, hfirst]

/-- What holds in `t` when an exchange begun in `s` has not yet gone beyond step 22: what has happened, completed by any
trace the rest of the exchange may make, is a trace of `mbox_call`. -/
structure DuringExchange (s t : State) : Prop where
  cfg : t.cfg = s.cfg
  range : 8 ≤ t.step.toNat ∧ t.step.toNat ≤ 22
  events : ∃ m, t.trace = s.trace ++ m ∧ ∀ rest, RestOfExchange t.cfg t.step rest → MboxTrace t.cfg (m ++ rest)
  cw : 18 ≤ t.step.toNat → t.cw = .holds (channelWordOf t.cfg.bufAddr)
  rd : t.step = 22#6 → t.rd = .holds (channelWordOf t.cfg.bufAddr)
  buffer : 20 ≤ t.step.toNat → ∀ i, i < 9 → t.bufSpecified i = none

namespace DuringExchange

variable {s t u : State}

theorem start (hx : s.step = 8#6) : DuringExchange s s where
  cfg := rfl
  range := by simp [hx]
  events := ⟨[], (List.append_nil _).symm, fun _ hrest => .of_rest (hx ▸ hrest)⟩
  cw h := by simp [hx] at h
  rd h := by simp [hx] at h
  buffer h := by simp [hx] at h

theorem raise (h : DuringExchange s t) (f : Fault) : DuringExchange s (t.raise f) := { h with }

/-- The events of a step that the rest of the exchange begins with. -/
theorem events_append (h : DuringExchange s t) {y : StepIx} {es : List Event}
    (hes : ∀ rest, RestOfExchange t.cfg y rest → RestOfExchange t.cfg t.step (es ++ rest)) :
    ∃ m, t.trace ++ es = s.trace ++ m ∧ ∀ rest, RestOfExchange t.cfg y rest → MboxTrace t.cfg (m ++ rest) := by
  obtain ⟨m, htrace, hm⟩ := h.events
  refine ⟨m ++ es, by rw [htrace, List.append_assoc], fun rest hrest => ?_⟩
  rw [List.append_assoc]
  exact hm _ (hes rest hrest)

/-- Step `i + 8` stores word `i` of the request. -/
theorem store (h : DuringExchange s t) {i : Nat} (hi : i < 9) (hx : t.step.toNat = i + 8)
    (hrun : opStw i (requestWordAt t.cfg i) t = .next u) : DuringExchange s u := by
  rw [opStw_eq, Host.Outcome.next.injEq] at hrun
  subst hrun
  split
  · have hnext : (t.step + 1#6).toNat = i + 9 := by simp only [BitVec.toNat_add, BitVec.toNat_ofNat]; omega
    refine { h with
      range := ?_
      events := h.events_append fun _ => .store hi hx
      cw := ?_
      rd := fun hy => absurd (congrArg BitVec.toNat hy) ?_
      buffer := ?_ }
    -- Indices 9 to 17 ask for nothing else.
    all_goals simp only [hnext, BitVec.toNat_ofNat]; omega
  · exact h.raise _

theorem loadChannel (h : DuringExchange s t) (hx : t.step = 17#6) (hrun : opLcw t = .next u) : DuringExchange s u := by
  rw [opLcw_eq, Host.Outcome.next.injEq] at hrun
  subst hrun
  refine { h with
    range := by simp [hx]
    events := ?_
    cw := fun _ => rfl
    rd := by simp [hx]
    buffer := by simp [hx] }
  have hnone (rest : List Event) (hrest : RestOfExchange t.cfg (t.step + 1#6) rest) :
      RestOfExchange t.cfg t.step ([] ++ rest) := by
    rw [hx] at hrest ⊢
    exact ⟨rest, hrest, rfl⟩
  simpa using h.events_append hnone

/-- One round of either poll, given how it takes the rest of the exchange on (41_delay_and_wait.md R132). -/
theorem poll (h : DuringExchange s t) {mask : Word} (hx : t.step.toNat = 18 ∨ t.step.toNat = 20)
    (hclear : ∀ {v rest}, v &&& mask = 0#32 → RestOfExchange t.cfg (t.step + 1#6) rest →
      RestOfExchange t.cfg t.step (.busR (t.cfg.addr .mboxStatus) v :: rest))
    (hbusy : ∀ {v rest}, v &&& mask ≠ 0#32 → RestOfExchange t.cfg t.step rest →
      RestOfExchange t.cfg t.step (.busR (t.cfg.addr .mboxStatus) v :: rest))
    (hrun : opWtc .mboxStatus mask t = .next u) : DuringExchange s u := by
  rw [opWtc_eq, Host.Outcome.next.injEq] at hrun
  subst hrun
  have hnext : (t.step + 1#6).toNat = t.step.toNat + 1 := by simp only [BitVec.toNat_add, BitVec.toNat_ofNat]; omega
  split
  · split
    · next hv =>
      exact { h with
        range := by simp only [hnext]; omega
        events := h.events_append fun _ => hclear hv
        cw := fun _ => h.cw (by omega)
        rd := fun hy => absurd (congrArg BitVec.toNat hy) (by simp only [hnext, BitVec.toNat_ofNat]; omega)
        buffer := fun hy => h.buffer (by simp only [hnext] at hy; omega) }
    · next hv =>
      exact { h with
        events := h.events_append fun _ => hbusy hv
        rd := fun hy => absurd (congrArg BitVec.toNat hy) (by simp only [BitVec.toNat_ofNat]; omega) }
  · exact h.raise _

theorem pollFull (h : DuringExchange s t) (hx : t.step = 18#6)
    (hrun : opWtc .mboxStatus t.cfg.params.mboxFull t = .next u) : DuringExchange s u := by
  refine h.poll (by simp [hx]) (fun hv hrest => ?_) (fun hv hrest => ?_) hrun <;> rw [hx] at hrest ⊢
  · exact SendTrace.clear hv hrest
  · exact FullPollTrace.busy hv hrest

/-- Step 19 sends the channel word and hands the buffer over (10_state.md R48). -/
theorem send (h : DuringExchange s t) (hx : t.step = 19#6) (hrun : opWrc .mboxWrite t = .next u) :
    DuringExchange s u := by
  have hcw := h.cw (by simp [hx])
  rw [opWrc_eq, hcw, Host.Outcome.next.injEq] at hrun
  subst hrun
  dsimp only
  split
  · refine { h with
      range := by simp [hx]
      events := h.events_append fun rest hrest => ?_
      cw := fun _ => hcw
      rd := by simp [hx]
      buffer := fun _ i hi => readWord_forget_buffer t.cfg t.mem hi }
    rw [State.advance_step, handOver_step, State.emit_step, hx] at hrest
    rw [hx]
    exact ⟨rest, hrest, rfl⟩
  · exact h.raise _

theorem pollEmpty (h : DuringExchange s t) (hx : t.step = 20#6)
    (hrun : opWtc .mboxStatus t.cfg.params.mboxEmpty t = .next u) : DuringExchange s u := by
  refine h.poll (by simp [hx]) (fun hv hrest => ?_) (fun hv hrest => ?_) hrun <;> rw [hx] at hrest ⊢
  · exact ReadTrace.clear hv hrest
  · exact RecvTrace.busy hv hrest

/-- Step 21 ends the exchange when the word read is the channel word, else it begins another round (42_mailbox.md R144). -/
theorem receive (h : DuringExchange s t) (hx : t.step = 21#6) (hrun : opRdm .mboxRead 20#6 t = .next u) :
    DuringExchange s u := by
  have hcw := h.cw (by simp [hx])
  have hbuffer := h.buffer (by simp [hx])
  rw [opRdm_eq, hcw, Host.Outcome.next.injEq] at hrun
  subst hrun
  dsimp only
  split
  · split
    · next hmatch =>
      refine { h with
        range := by simp [hx]
        events := h.events_append fun _ hrest => ?_
        cw := fun _ => hcw
        rd := fun _ => congrArg Latch.holds hmatch
        buffer := fun _ => hbuffer }
      rw [hx] at hrest ⊢
      cases hrest
      exact hmatch ▸ ReadTrace.matched
    · next hstale =>
      refine { h with
        range := by simp
        events := h.events_append fun _ hrest => ?_
        cw := fun _ => hcw
        rd := by simp
        buffer := fun _ => hbuffer }
      rw [hx]
      exact ReadTrace.stale hstale hrest
  · exact h.raise _

end DuringExchange

/-- The entries of the exchange and of step 22 (30_encoding.md R100). -/
theorem entry_of_exchange {x : StepIx} {op : MicroOp} (hx : 8 ≤ x.toNat ∧ x.toNat ≤ 22)
    (hop : (decodeStep x).entry = some op) :
    (∃ i value, i < 9 ∧ x.toNat = i + 8 ∧ op = .stw i value) ∨
    (x = 17#6 ∧ op = .lcw) ∨
    (x = 18#6 ∧ op = .wtc .mboxStatus (.param .mboxFull)) ∨
    (x = 19#6 ∧ op = .wrc .mboxWrite) ∨
    (x = 20#6 ∧ op = .wtc .mboxStatus (.param .mboxEmpty)) ∨
    (x = 21#6 ∧ op = .rdm .mboxRead 20#6) ∨
    x = 22#6 := by
  obtain ⟨n, hn, rfl⟩ : ∃ n, (8 ≤ n ∧ n ≤ 22) ∧ x = BitVec.ofNat 6 n := ⟨x.toNat, hx, by simp⟩
  clear hx
  obtain ⟨hlo, hhi⟩ := hn
  interval_cases n <;> cases hop <;> simp

/-- No step leads from beyond step 22 back to it or before. -/
theorem beyond_exchange_of_successor : ∀ x : StepIx, 22 ≤ x.toNat → ∀ op ∈ (decodeStep x).entry,
    ∀ y ∈ successors x op, 22 < y.toNat := by
  decide

/-- A step from step 22 or beyond goes beyond it, or raises a fault. -/
theorem step_beyond_exchange {s t : State} (hx : 22 ≤ s.step.toNat) (h : step s = .next t) :
    22 < t.step.toNat ∨ ∃ f, t = s.raise f := by
  rcases step_entry h with ⟨op, hop, hrun⟩ | ⟨-, rfl⟩
  · rcases runMicroOp_raises_or_performs hrun with hf | ⟨-, hnext, -⟩
    · exact .inr hf
    · exact .inl (beyond_exchange_of_successor _ hx op hop _ hnext)
  · exact .inr ⟨_, rfl⟩

/-- A step of the exchange, row by row, stays in it until it goes beyond step 22. -/
theorem DuringExchange.of_step {s t u : State} (h : DuringExchange s t) (hst : step t = .next u) :
    DuringExchange s u ∨ 22 < u.step.toNat := by
  rcases step_entry hst with ⟨op, hop, hrun⟩ | ⟨-, rfl⟩
  · rcases entry_of_exchange h.range hop with
      ⟨i, value, hi, hx, rfl⟩ | ⟨hx, rfl⟩ | ⟨hx, rfl⟩ | ⟨hx, rfl⟩ | ⟨hx, rfl⟩ | ⟨hx, rfl⟩ | hx
    · rw [runMicroOp, stw_entry_value hop] at hrun
      exact .inl (h.store hi hx hrun)
    · exact .inl (h.loadChannel hx hrun)
    · exact .inl (h.pollFull hx hrun)
    · exact .inl (h.send hx hrun)
    · exact .inl (h.pollEmpty hx hrun)
    · exact .inl (h.receive hx hrun)
    · rcases step_beyond_exchange (by simp [hx]) hst with hbeyond | ⟨f, rfl⟩
      · exact .inr hbeyond
      · exact .inl (h.raise f)
  · exact .inl (h.raise _)

/-- A run from step 8 is in the exchange, or has gone beyond it and does not come back. -/
theorem Reaches.duringExchange {s t : State} (hx : s.step = 8#6) (h : Reaches s t) :
    DuringExchange s t ∨ 22 < t.step.toNat := by
  refine h.keeps (p := fun t => DuringExchange s t ∨ 22 < t.step.toNat) (.inl (.start hx)) fun u v hu hst => ?_
  rcases hu with hu | hbeyond
  · exact hu.of_step hst
  · rcases step_beyond_exchange hbeyond.le hst with hv | ⟨f, rfl⟩
    · exact .inr hv
    · exact .inr hbeyond

/-- Settles O49: at step 22 the rest of the exchange is empty. -/
theorem mailboxExchangeTrace : Obligations.MailboxExchangeTrace := by
  intro s t hs hreach ht
  rcases hreach.duringExchange hs with h | hbeyond
  · obtain ⟨m, htrace, hm⟩ := h.events
    have hmbox := hm [] (by rw [ht]; rfl)
    rw [List.append_nil] at hmbox
    rw [← h.cfg]
    exact ⟨⟨m, hmbox, htrace⟩, h.cw (by simp [ht]), h.rd ht, h.buffer (by simp [ht])⟩
  · exact absurd hbeyond (by simp [ht])

end Sys2Proof.Machine
end

section
/-! PROOFS. The initialization (43_uart_init.md): steps 0 to 6 and 22 to 26 run straight through, step 7 branches
between them; the phases a run from step 0 goes through and the trace it makes; what a run from reset does first. -/

namespace Sys2Proof.Machine

/-! ## The branch on the board profile -/

/-- Settles O18: the row is the operation `BNP`, in each of the two profiles. -/
theorem bnpFollowsTheProfile : Obligations.BnpFollowsTheProfile := by
  intro s
  have hbnp : exec .sNeg s = opBnp 22#6 s := rfl
  rw [hbnp, opBnp_eq]
  constructor
  · intro hneg
    rw [if_pos hneg]
  · intro hneg
    rw [if_neg (Bool.eq_false_iff.1 hneg)]

/-- Step 7 goes into the exchange or past it, and nothing else changes (43_uart_init.md R171, R179). -/
theorem step_of_branch {s : State} (hx : s.step = 7#6) (hf : s.fault = none) :
    step s = .next { s with step := if s.cfg.profile.requiresClockNegotiation then 8#6 else 22#6 } := by
  have hrow : decodeStep s.step = .sNeg := by rw [hx]; rfl
  rw [step_of_none hf, hrow]
  cases hneg : s.cfg.profile.requiresClockNegotiation with
  | true => rw [(bnpFollowsTheProfile s).1 hneg, hx]; rfl
  | false => exact (bnpFollowsTheProfile s).2 hneg

/-! ## Steps that run straight through -/

/-- The event of a micro-operation that only records one and goes on to the next index: a write of a constant, or a
delay. -/
def straightEvent (c : Cfg) : MicroOp → Option Event
  | .wr reg value => some (.busW (c.addr reg) (value.eval c.params))
  | .dly count => some (.delay (count.eval c.params))
  | _ => none

/-- Such a micro-operation records its event and goes on, unless its register is not mapped. -/
theorem runMicroOp_of_straightEvent {op : MicroOp} {s : State} {e : Event} (he : straightEvent s.cfg op = some e) :
    runMicroOp op s = .next (s.emit e).advance ∨ ¬ AllMapped s.cfg ∧ ∃ f, runMicroOp op s = .next (s.raise f) := by
  cases op with
  | wr reg value =>
    cases he
    rw [runMicroOp, opWr_eq]
    by_cases hmapped : s.cfg.isMapped (s.cfg.addr reg) = true
    · rw [if_pos hmapped]
      exact .inl rfl
    · rw [if_neg hmapped]
      exact .inr ⟨fun hall => hmapped (hall.1 reg), _, rfl⟩
  | dly count =>
    cases he
    exact .inl rfl
  | _ => cases he

/-- The entries from index `x` on record the events `es`, one each. -/
def Emits (c : Cfg) : StepIx → List Event → Prop
  | _, [] => True
  | x, e :: es => (decodeStep x).entry.bind (straightEvent c) = some e ∧ Emits c (x + 1#6) es

/-- Steps 0 to 6 (43_uart_init.md R172 to R178). -/
theorem emits_initHead (c : Cfg) : Emits c 0#6 (initHead c) := ⟨rfl, rfl, rfl, rfl, rfl, rfl, rfl, trivial⟩

/-- Steps 22 to 26 (43_uart_init.md R180 to R184). -/
theorem emits_initTail (c : Cfg) : Emits c 22#6 (initTail c) := ⟨rfl, rfl, rfl, rfl, rfl, trivial⟩

/-- One step where the entries record the event `e` next. -/
theorem step_of_emits {s : State} {e : Event} {es : List Event} (h : Emits s.cfg s.step (e :: es))
    (hf : s.fault = none) :
    step s = .next (s.emit e).advance ∨ ¬ AllMapped s.cfg ∧ ∃ f, step s = .next (s.raise f) := by
  obtain ⟨op, hop, he⟩ := Option.bind_eq_some_iff.1 h.1
  rw [step_of_none hf, exec_of_entry hop]
  exact runMicroOp_of_straightEvent he

/-- With everything mapped, as many steps as there are events record them all. -/
theorem run_of_emits : ∀ {es : List Event} {s : State}, Emits s.cfg s.step es → AllMapped s.cfg → s.fault = none →
    run es.length s = .next { s with step := s.step + BitVec.ofNat 6 es.length, trace := s.trace ++ es }
  | [], s, _, _, _ => by simp [run]
  | e :: es, s, h, hall, hf => by
    have hstep : step s = .next (s.emit e).advance := (step_of_emits h hf).resolve_right fun hraise => hraise.1 hall
    have hrest := run_of_emits (s := (s.emit e).advance) h.2 hall hf
    have hnext : s.step + 1#6 + BitVec.ofNat 6 es.length = s.step + BitVec.ofNat 6 (es.length + 1) := by
      rw [BitVec.add_assoc, Nat.add_comm, BitVec.ofNat_add]
    rw [List.length_cons, run_succ hstep, hrest, ← hnext]
    simp [State.emit, State.advance]

/-- Settles O53: seven steps straight through, the branch past the exchange, five steps straight through. -/
theorem initializationWithoutNegotiation : Obligations.InitializationWithoutNegotiation := by
  intro s hneg hall hx hf
  refine ⟨?_, rfl⟩
  have hhead := run_of_emits (hx ▸ emits_initHead s.cfg) hall hf
  rw [hx] at hhead
  have hbranch := step_of_branch (s := { s with step := 7#6, trace := s.trace ++ initHead s.cfg }) rfl hf
  simp only [hneg, if_neg Bool.false_ne_true] at hbranch
  have htail := run_of_emits (s := { s with step := 22#6, trace := s.trace ++ initHead s.cfg }) (emits_initTail s.cfg)
    hall hf
  calc run 13 s
    _ = run 6 { s with step := 7#6, trace := s.trace ++ initHead s.cfg } := run_add 6 hhead
    _ = run 5 { s with step := 22#6, trace := s.trace ++ initHead s.cfg } := run_succ hbranch 5
    _ = .next { s with step := 27#6, trace := s.trace ++ (initHead s.cfg ++ initTail s.cfg) } := by
      rw [← List.append_assoc]; exact htail

/-! ## Being on the way through such steps -/

/-- In `t` the events `es` have been recorded after `before` as far as the index has come on its way to `stop`. -/
def OnTheWay (before es : List Event) (stop : StepIx) (t : State) : Prop :=
  ∃ done todo, es = done ++ todo ∧ t.trace = before ++ done ∧ Emits t.cfg t.step todo ∧
    t.step.toNat + todo.length = stop.toNat

namespace OnTheWay

variable {before es : List Event} {stop : StepIx} {t u : State}

theorem start (hemits : Emits t.cfg t.step es) (hstop : t.step.toNat + es.length = stop.toNat) :
    OnTheWay t.trace es stop t :=
  ⟨[], es, rfl, (List.append_nil _).symm, hemits, hstop⟩

theorem raise (h : OnTheWay before es stop t) (f : Fault) : OnTheWay before es stop (t.raise f) := h

theorem step_le (h : OnTheWay before es stop t) : t.step.toNat ≤ stop.toNat := by
  obtain ⟨_, _, -, -, -, hstop⟩ := h
  omega

theorem trace_prefix (h : OnTheWay before es stop t) : t.trace <+: before ++ es := by
  obtain ⟨done, todo, rfl, htrace, -, -⟩ := h
  exact ⟨todo, by rw [htrace, List.append_assoc]⟩

theorem trace_at_stop (h : OnTheWay before es stop t) (hx : t.step = stop) : t.trace = before ++ es := by
  obtain ⟨done, todo, rfl, htrace, -, hstop⟩ := h
  obtain rfl : todo = [] := List.eq_nil_of_length_eq_zero (by rw [hx] at hstop; omega)
  rw [htrace, List.append_nil]

/-- A step before `stop` records the next event, or raises a fault. -/
theorem of_step (h : OnTheWay before es stop t) (hx : t.step ≠ stop) (hst : step t = .next u) :
    OnTheWay before es stop u := by
  obtain ⟨done, todo, hes, htrace, hemits, hstop⟩ := h
  cases todo with
  | nil => exact absurd (BitVec.eq_of_toNat_eq hstop) hx
  | cons e todo =>
    rcases step_of_emits hemits (fault_none_of_step hst) with hgo | ⟨-, f, hraise⟩
    · obtain rfl := Host.Outcome.next.inj (hst.symm.trans hgo)
      refine ⟨done ++ [e], todo, by rw [hes, List.append_assoc]; rfl, ?_, hemits.2, ?_⟩
      · rw [State.advance_trace, State.emit_trace, htrace, List.append_assoc]
      · have hlt := stop.isLt
        rw [List.length_cons] at hstop
        simp only [State.advance_step, State.emit_step, BitVec.toNat_add, BitVec.toNat_ofNat]
        omega
    · obtain rfl := Host.Outcome.next.inj (hst.symm.trans hraise)
      exact ⟨done, e :: todo, hes, htrace, hemits, hstop⟩

end OnTheWay

/-! ## The trace of the initialization -/

/-- A step raises a fault and does nothing else, or performs the access of its entry and goes to one of its
successors. -/
theorem step_raises_or_performs {s t : State} (h : step s = .next t) :
    (∃ f, t = s.raise f) ∨ ∃ op ∈ (decodeStep s.step).entry, t.step ∈ successors s.step op ∧
      ∃ es, Performs s.cfg op es ∧ t.trace = s.trace ++ es := by
  rcases step_entry h with ⟨op, hop, hrun⟩ | ⟨-, rfl⟩
  · exact (runMicroOp_raises_or_performs hrun).imp_right fun ⟨_, hnext, hes⟩ => ⟨op, hop, hnext, hes⟩
  · exact .inl ⟨_, rfl⟩

/-- The string index never goes back (10_state.md R26). -/
theorem si_le_of_step {s t : State} (h : step s = .next t) : s.si ≤ t.si := by
  rcases step_entry h with ⟨op, -, hrun⟩ | ⟨-, rfl⟩
  · obtain ⟨-, -, -, hsi⟩ := runMicroOp_writers hrun
    by_cases hsame : t.si = s.si
    · exact hsame.ge
    · have := (hsi hsame).2
      omega
  · exact le_rfl

/-- Step 27 leaves for the echo loop or counts a byte of the greeting (44_uart_io.md R191). -/
theorem step_of_greeting {s t : State} (hx : s.step = 27#6) (h : step s = .next t) : t.step = 31#6 ∨ s.si < t.si := by
  have hrow : decodeStep s.step = .sGrNext := by rw [hx]; rfl
  rw [step_of_none (fault_none_of_step h), hrow] at h
  change opLdg 31#6 s = .next t at h
  rw [opLdg_eq, Host.Outcome.next.injEq] at h
  subst h
  split
  · exact .inl rfl
  · exact .inr (Nat.lt_succ_self _)

/-- A step of the exchange stays in it or ends it at step 22. -/
theorem exchange_successor : ∀ x : StepIx, InExchange x → ∀ op ∈ (decodeStep x).entry, ∀ y ∈ successors x op,
    InExchange y ∨ y = 22#6 := by
  decide

/-- The echo loop is not left. -/
theorem echo_successor : ∀ x : StepIx, 31 ≤ x.toNat → ∀ op ∈ (decodeStep x).entry, ∀ y ∈ successors x op,
    31 ≤ y.toNat := by
  decide

/-- The events the exchange adds to an initialization: its trace, or none without clock negotiation. -/
def ExchangeEvents (c : Cfg) (m : List Event) : Prop :=
  if c.profile.requiresClockNegotiation then MboxTrace c m else m = []

/-- Where a run from a state `s` at step 0 can be, and what it has recorded there. -/
inductive InitPhase (s t : State) : Prop where
  /-- Steps 0 to 7. -/
  | setup (way : OnTheWay s.trace (initHead s.cfg) 7#6 t)
  /-- In the exchange begun in `v`. -/
  | exchange (v : State) (reach : Reaches v t) (start : v.step = 8#6) (cfg : v.cfg = s.cfg)
      (trace : v.trace = s.trace ++ initHead s.cfg) (inside : InExchange t.step)
      (negotiates : s.cfg.profile.requiresClockNegotiation = true)
  /-- Steps 22 to 27, before the greeting. -/
  | configure (m : List Event) (events : ExchangeEvents s.cfg m)
      (way : OnTheWay (s.trace ++ initHead s.cfg ++ m) (initTail s.cfg) 27#6 t)
  /-- In the greeting with a byte counted, or in the echo loop. -/
  | beyond (left : 31 ≤ t.step.toNat ∨ s.si < t.si)

namespace InitPhase

variable {s t u : State}

/-- Arriving at step 22, with or without an exchange. -/
theorem of_configure {m : List Event} (hcfg : t.cfg = s.cfg) (hx : t.step = 22#6) (hm : ExchangeEvents s.cfg m)
    (htrace : t.trace = s.trace ++ initHead s.cfg ++ m) : InitPhase s t := by
  refine .configure m hm (htrace ▸ .start ?_ (by rw [hx]; rfl))
  rw [hcfg, hx]
  exact emits_initTail _

/-- Step 7 begins the exchange, or leads past it. -/
theorem of_branch (hcfg : t.cfg = s.cfg) (hx : t.step = 7#6) (htrace : t.trace = s.trace ++ initHead s.cfg)
    (hst : step t = .next u) : InitPhase s u := by
  rw [step_of_branch hx (fault_none_of_step hst), Host.Outcome.next.injEq] at hst
  subst hst
  have hprofile : t.cfg.profile = s.cfg.profile := congrArg Cfg.profile hcfg
  cases hneg : s.cfg.profile.requiresClockNegotiation with
  | true =>
    rw [hprofile, hneg, if_pos rfl]
    exact .exchange _ .here rfl hcfg htrace (show InExchange 8#6 by decide) hneg
  | false =>
    rw [hprofile, hneg, if_neg Bool.false_ne_true]
    exact .of_configure (m := []) hcfg rfl (by simp [ExchangeEvents, hneg]) (by simpa using htrace)

/-- A step from a phase leads to a phase. -/
theorem of_step (h : InitPhase s t) (hcfg : t.cfg = s.cfg) (hsi : s.si ≤ t.si) (hst : step t = .next u) :
    InitPhase s u := by
  cases h with
  | setup way =>
    by_cases hx : t.step = 7#6
    · exact .of_branch hcfg hx (way.trace_at_stop hx) hst
    · exact .setup (way.of_step hx hst)
  | exchange v hreach hv hvcfg hvtrace hin hneg =>
    have hu : InExchange u.step ∨ u.step = 22#6 := by
      rcases step_raises_or_performs hst with ⟨f, rfl⟩ | ⟨op, hop, hnext, -⟩
      · exact .inl hin
      · exact exchange_successor _ hin op hop _ hnext
    rcases hu with hin | hx
    · exact .exchange v (.next hreach hst) hv hvcfg hvtrace hin hneg
    · obtain ⟨⟨m, hm, htrace⟩, -⟩ := mailboxExchangeTrace v u hv (.next hreach hst) hx
      rw [hvcfg] at hm
      exact .of_configure ((cfg_of_step hst).trans hcfg) hx ((if_pos hneg).mpr hm) (by rw [htrace, hvtrace])
  | configure m hm way =>
    by_cases hx : t.step = 27#6
    · rcases step_of_greeting hx hst with hecho | hcount
      · exact .beyond (.inl (by rw [hecho]; decide))
      · exact .beyond (.inr (hsi.trans_lt hcount))
    · exact .configure m hm (way.of_step hx hst)
  | beyond hleft =>
    refine .beyond (hleft.imp (fun hecho => ?_) fun hcount => hcount.trans_le (si_le_of_step hst))
    rcases step_raises_or_performs hst with ⟨f, rfl⟩ | ⟨op, hop, hnext, -⟩
    · exact hecho
    · exact echo_successor _ hecho op hop _ hnext

end InitPhase

theorem Reaches.initPhase {s t : State} (hx : s.step = 0#6) (h : Reaches s t) : InitPhase s t := by
  have hstart : InitPhase s s := .setup (.start (by rw [hx]; exact emits_initHead _) (by rw [hx]; rfl))
  have hkeeps := h.keeps (p := fun t => t.cfg = s.cfg ∧ s.si ≤ t.si ∧ InitPhase s t) ⟨rfl, le_rfl, hstart⟩
    fun u v ⟨hcfg, hsi, hphase⟩ hst =>
      ⟨(cfg_of_step hst).trans hcfg, hsi.trans (si_le_of_step hst), hphase.of_step hcfg hsi hst⟩
  exact hkeeps.2.2

/-- Settles O48: at step 27 with no byte of the greeting counted, the run is at the end of its last phase. -/
theorem initializationTrace : Obligations.InitializationTrace := by
  intro s t hs hreach ht hsi
  cases hreach.initPhase hs with
  | setup way => exact absurd way.step_le (by rw [ht]; decide)
  | exchange _ _ _ _ _ hin _ => exact absurd hin (by rw [ht]; decide)
  | configure m hm way =>
    refine ⟨initHead s.cfg ++ m ++ initTail s.cfg, ⟨m, hm, rfl⟩, ?_⟩
    simp only [way.trace_at_stop ht, List.append_assoc]
  | beyond hleft => simp [ht, hsi] at hleft

/-! ## The bus writes of an initialization -/

theorem PollTrace.busWrites_eq_nil {c : Cfg} {reg : Reg} {mask : Word} {m : List Event} (h : PollTrace c reg mask m) :
    busWrites m = [] := by
  obtain ⟨busy, v, -, -, rfl⟩ := h
  induction busy with
  | nil => rfl
  | cons w busy ih => exact ih

theorem RecvTrace.busWrites_eq_nil {c : Cfg} {m : List Event} (h : RecvTrace c m) : busWrites m = [] := by
  induction h with
  | matched hpoll => simp [busWrites_append, hpoll.busWrites_eq_nil, busWrites]
  | stale hpoll _ _ ih => simp [busWrites_append, hpoll.busWrites_eq_nil, busWrites, ih]

/-- An exchange writes the channel word to `MBOX_WRITE` and nothing else, whatever was read (42_mailbox.md R159). -/
theorem MboxTrace.busWrites_eq {c : Cfg} {m : List Event} (h : MboxTrace c m) :
    busWrites m = [(c.addr .mboxWrite, channelWordOf c.bufAddr)] := by
  obtain ⟨poll, recv, hpoll, hrecv, rfl⟩ := h
  have hrequest : busWrites (requestEvents c) = [] := rfl
  simp [busWrites_append, busWrites, hrequest, hpoll.busWrites_eq_nil, hrecv.busWrites_eq_nil]

/-- The bus writes of an initialization, in order (43_uart_init.md R185). -/
def initWrites (c : Cfg) : List (Word × Word) :=
  busWrites (initHead c) ++
    (if c.profile.requiresClockNegotiation then [(c.addr .mboxWrite, channelWordOf c.bufAddr)] else []) ++
    busWrites (initTail c)

theorem InitTrace.busWrites_eq {c : Cfg} {m : List Event} (h : InitTrace c m) : busWrites m = initWrites c := by
  obtain ⟨x, hx, rfl⟩ := h
  rw [busWrites_append, busWrites_append, initWrites]
  split at hx
  · next hneg => rw [hx.busWrites_eq, if_pos hneg]
  · next hneg => rw [hx, busWrites, if_neg hneg]

/-- An initialization writes each of the seven registers (43_uart_init.md R188). -/
theorem InitTrace.writesAt_ne_nil {c : Cfg} {m : List Event} (h : InitTrace c m) {reg : Reg}
    (hreg : reg ∈ ([.uart0Cr, .uart0Ibrd, .uart0Fbrd, .uart0Lcrh, .uart0Imsc, .gppud, .gppudclk0] : List Reg)) :
    writesAt (c.addr reg) m ≠ [] := by
  obtain ⟨x, -, rfl⟩ := h
  have hwritten : writesAt (c.addr reg) (initHead c) ≠ [] ∨ writesAt (c.addr reg) (initTail c) ≠ [] := by
    fin_cases hreg <;> simp [initHead, initTail, writesAt, c.addr_eq_iff]
  rw [writesAt_append, writesAt_append]
  rcases hwritten with hhead | htail
  · simp [hhead]
  · simp [htail]

/-- What is written last does not depend on what was written before. -/
theorem lastWritten_append {c : Cfg} {reg : Reg} {m : List Event} (before : List Event)
    (h : writesAt (c.addr reg) m ≠ []) : lastWritten c reg (before ++ m) = lastWritten c reg m := by
  rw [lastWritten, writesAt_append, List.getLast?_append_of_ne_nil _ h, lastWritten]

/-- Traces with the same bus writes have the same last words written. -/
theorem lastWritten_congr {m m' : List Event} (h : busWrites m = busWrites m') (c : Cfg) (reg : Reg) :
    lastWritten c reg m = lastWritten c reg m' := by
  simp only [lastWritten, writesAt_eq_filter, h]

/-- Settles O50: the bus writes of an initialization are determined by the configuration. -/
theorem initializationIsRepeatable : Obligations.InitializationIsRepeatable := by
  intro s t s' t' hcfg hs hs' hreach hreach' ht ht' hsi hsi'
  obtain ⟨m, hm, htrace⟩ := initializationTrace s t hs hreach ht hsi
  obtain ⟨m', hm', htrace'⟩ := initializationTrace s' t' hs' hreach' ht' hsi'
  rw [← hcfg] at hm'
  have hwrites : busWrites m = busWrites m' := hm.busWrites_eq.trans hm'.busWrites_eq.symm
  refine ⟨m, m', htrace, htrace', hwrites, fun reg hreg => ⟨?_, ?_⟩⟩
  · rw [htrace, lastWritten_append _ (hm.writesAt_ne_nil hreg)]
  · rw [htrace', lastWritten_append _ (hm'.writesAt_ne_nil hreg), lastWritten_congr hwrites]

/-! ## What a run from reset does first -/

/-- Steps 0 to 7 are not returned to. -/
theorem beyond_setup_of_successor : ∀ x : StepIx, 7 < x.toNat → ∀ op ∈ (decodeStep x).entry, ∀ y ∈ successors x op,
    7 < y.toNat := by
  decide

/-- Past the setup no entry writes a register of the pull-up/down handshake. -/
theorem handshake_not_written_beyond_setup : ∀ x : StepIx, 7 < x.toNat → ∀ op ∈ (decodeStep x).entry,
    writtenReg op ≠ some .gppud ∧ writtenReg op ≠ some .gppudclk0 := by
  decide

/-- No write of a register of the pull-up/down handshake. -/
def HandshakeUntouched (c : Cfg) (m : List Event) : Prop :=
  writesAt (c.addr .gppud) m = [] ∧ writesAt (c.addr .gppudclk0) m = []

theorem HandshakeUntouched.append {c : Cfg} {m es : List Event} (hm : HandshakeUntouched c m)
    (hes : HandshakeUntouched c es) : HandshakeUntouched c (m ++ es) := by
  simp only [HandshakeUntouched, writesAt_append, hm.1, hm.2, hes.1, hes.2, List.append_nil, and_self]

theorem HandshakeUntouched.of_prefix {c : Cfg} {m m' : List Event} (h : m <+: m') (hm' : HandshakeUntouched c m') :
    HandshakeUntouched c m := by
  obtain ⟨rest, rfl⟩ := h
  simp only [HandshakeUntouched, writesAt_append, List.append_eq_nil_iff] at hm'
  exact ⟨hm'.1.1, hm'.2.1⟩

/-- A run from reset is on its way through the setup, or has made all its events, and none that undoes the handshake. -/
def SetupFirst (s : State) : Prop :=
  OnTheWay [] (initHead s.cfg) 7#6 s ∨
    7 < s.step.toNat ∧ ∃ later, s.trace = initHead s.cfg ++ later ∧ HandshakeUntouched s.cfg later

theorem SetupFirst.initial (c : Cfg) (sc : Script) : SetupFirst (State.initial c sc) :=
  .inl (.start (t := State.initial c sc) (emits_initHead c) rfl)

theorem SetupFirst.of_step {s t : State} (h : SetupFirst s) (hst : step s = .next t) : SetupFirst t := by
  have hcfg : t.cfg = s.cfg := cfg_of_step hst
  rw [SetupFirst, hcfg]
  rcases h with way | ⟨hx, later, htrace, hlater⟩
  · by_cases hx : s.step = 7#6
    · have htrace : s.trace = initHead s.cfg := way.trace_at_stop hx
      rw [step_of_branch hx (fault_none_of_step hst), Host.Outcome.next.injEq] at hst
      refine .inr ⟨?_, [], ?_, rfl, rfl⟩ <;> rw [← hst]
      · dsimp only
        split <;> decide
      · rw [List.append_nil]
        exact htrace
    · exact .inl (way.of_step hx hst)
  · rcases step_raises_or_performs hst with ⟨f, rfl⟩ | ⟨op, hop, hnext, es, hes, ht⟩
    · exact .inr ⟨hx, later, htrace, hlater⟩
    · obtain ⟨hgppud, hgppudclk0⟩ := handshake_not_written_beyond_setup _ hx op hop
      exact .inr ⟨beyond_setup_of_successor _ hx op hop _ hnext, later ++ es, by rw [ht, htrace, List.append_assoc],
        hlater.append ⟨hes.writesAt_eq_nil hgppud, hes.writesAt_eq_nil hgppudclk0⟩⟩

/-- The trace of a run is that of the setup, as far as it has come, and then leaves the handshake alone. -/
theorem Reachable.trace_prefix {s : State} (h : Reachable s) :
    ∃ later, s.trace <+: initHead s.cfg ++ later ∧ HandshakeUntouched s.cfg later := by
  obtain ⟨c, sc, hreach⟩ := h
  rcases hreach.keeps (SetupFirst.initial c sc) fun _ _ => SetupFirst.of_step with way | ⟨-, later, htrace, hlater⟩
  · exact ⟨[], by simpa using way.trace_prefix, rfl, rfl⟩
  · exact ⟨later, htrace ▸ List.prefix_rfl, hlater⟩

/-- Settles O51: the first event of a run is the write of 0 to `UART0_CR`, so any other event comes after it. -/
theorem disableBeforeReconfigure : Obligations.DisableBeforeReconfigure := by
  intro s pre post e hs htrace he
  obtain ⟨later, hprefix, -⟩ := hs.trace_prefix
  rw [htrace] at hprefix
  cases pre with
  | nil => exact absurd (List.cons_prefix_cons.1 hprefix).1 he
  | cons first pre =>
    rw [← (List.cons_prefix_cons.1 hprefix).1]
    exact List.mem_cons_self

/-- The write of `UART0_ICR`, the one event of the setup after the handshake, leaves it alone. -/
theorem handshakeUntouched_icr (c : Cfg) : HandshakeUntouched c [.busW (c.addr .uart0Icr) c.params.icrAll] := by
  simp [HandshakeUntouched, writesAt, c.addr_eq_iff]

/-- Settles O52: the handshake is the first six events of the setup, and what follows it leaves it alone. -/
theorem handshakeOrder : Obligations.HandshakeOrder := by
  intro s hs
  obtain ⟨later, hprefix, hlater⟩ := hs.trace_prefix
  exact ⟨hprefix.take 6, ((handshakeUntouched_icr s.cfg).append hlater).of_prefix (hprefix.drop 6)⟩

end Sys2Proof.Machine
end

section
/-! PROOFS. The serial line (44_uart_io.md): the byte latch is loaded with a constant or with the greeting, jumps go to their
targets; in a run each access behind a gate comes immediately after a poll that showed its flag clear. -/

namespace Sys2Proof

open Machine

/-! ## Loading the byte latch, and jumps -/

/-- Settles O19: the row is the operation `LDC` on the newline. -/
theorem ldcLoadsTheNewline : Obligations.LdcLoadsTheNewline := fun s => opLdc_eq Config.newline s

theorem greetingByte_of_getElem? {c : Cfg} {i : Nat} {b : Byte} (h : c.params.greeting[i]? = some b) :
    greetingByte c i = b := by
  rw [greetingByte, h]

theorem greetingByte_beyond {c : Cfg} {i : Nat} (h : c.greetingLen ≤ i) : greetingByte c i = Config.pastGreeting i := by
  rw [greetingByte, List.getElem?_eq_none_iff.2 h]

/-- `LDG` at the end of the greeting leaves the loop. -/
theorem opLdg_at_end {s : State} (h : s.si = s.cfg.greetingLen) (target : StepIx) :
    opLdg target s = .next { s with step := target } := by
  rw [opLdg_eq, if_pos h]

/-- `LDG` elsewhere loads a byte and counts it. -/
theorem opLdg_of_ne {s : State} (h : s.si ≠ s.cfg.greetingLen) (target : StepIx) : opLdg target s = .next { s with
    ch := .holds (greetingByte s.cfg s.si), si := s.si + 1, step := s.step + 1#6 } := by
  rw [opLdg_eq, if_neg h]

/-- Settles O20: the row is the operation `LDG`, which counts a byte only before the end of the greeting. -/
theorem ldgTakesTheNextGreetingByte : Obligations.LdgTakesTheNextGreetingByte := by
  intro s
  have hldg : exec .sGrNext s = opLdg 31#6 s := rfl
  rw [hldg]
  refine ⟨fun hend => opLdg_at_end hend _, fun b hb => ?_, fun t hle ht => ?_⟩
  · have hlt : s.si < s.cfg.greetingLen := (List.getElem?_eq_some_iff.1 hb).1
    rw [opLdg_of_ne hlt.ne, greetingByte_of_getElem? hb]
  · by_cases hend : s.si = s.cfg.greetingLen
    · rw [opLdg_at_end hend, Host.Outcome.next.injEq] at ht
      exact ht ▸ hle
    · rw [opLdg_of_ne hend, Host.Outcome.next.injEq] at ht
      exact ht ▸ Nat.lt_of_le_of_ne hle hend

/-- Settles O21: beyond the greeting the byte loaded is the free one. -/
theorem ldgBeyondTheGreetingLoadsAFreeByte : Obligations.LdgBeyondTheGreetingLoadsAFreeByte := by
  intro s (hbeyond : s.cfg.greetingLen < s.si)
  have hldg : exec .sGrNext s = opLdg 31#6 s := rfl
  rw [hldg, opLdg_of_ne hbeyond.ne', greetingByte_beyond hbeyond.le]

/-- Settles O22: both rows are the operation `JMP`. -/
theorem jmpGoesToItsTarget : Obligations.JmpGoesToItsTarget := fun s => ⟨opJmp_eq 27#6 s, opJmp_eq 31#6 s⟩

end Sys2Proof

namespace Sys2Proof.Machine

/-! ## Accesses behind a gate -/

/-- The event of a bus access of a register. -/
def busEvent (c : Cfg) (kind : Access) (reg : Reg) (v : Word) : Event :=
  match kind with
  | .read => .busR (c.addr reg) v
  | .write => .busW (c.addr reg) v

/-- The register a micro-operation accesses, and how. -/
def accessOf : MicroOp → Option (Access × Reg)
  | .wr reg _ | .wrb reg | .wrc reg => some (.write, reg)
  | .rdb reg | .wtc reg _ | .rdm reg _ => some (.read, reg)
  | _ => none

theorem Performs.eq_nil_or_singleton {c : Cfg} {op : MicroOp} {es : List Event} (h : Performs c op es) :
    es = [] ∨ ∃ e, es = [e] := by
  cases h with
  | lcw | bnp | ldc | ldg | jmp => exact .inl rfl
  | _ => exact .inr ⟨_, rfl⟩

/-- The thirteen registers have thirteen addresses, so an event tells the register of the entry that performed it. -/
theorem Performs.accessOf_eq {c : Cfg} {op : MicroOp} {es : List Event} (h : Performs c op es) {kind : Access} {reg : Reg}
    {v : Word} (hmem : busEvent c kind reg v ∈ es) : accessOf op = some (kind, reg) := by
  cases h with
  | lcw | bnp | ldc | ldg | jmp => exact absurd hmem List.not_mem_nil
  | wr | wrb | wrc | rdb | wtc | rdm | stw | dly =>
    cases kind <;> simp_all [busEvent, accessOf, c.addr_eq_iff]

/-- Poll before access: the accesses of this kind of `reg` come after a poll of `poll` that showed `mask` clear. -/
structure Gate where
  kind : Access
  reg : Reg
  poll : Reg
  mask : Param

/-- `putc` waits for room in the transmit FIFO (44_uart_io.md R193). -/
def transmitGate : Gate := ⟨.write, .uart0Dr, .uart0Fr, .frTxff⟩

/-- `getc` waits for a byte in the receive FIFO (44_uart_io.md R194). -/
def receiveGate : Gate := ⟨.read, .uart0Dr, .uart0Fr, .frRxfe⟩

/-- The four gates of 70_reset_and_hazards.md R266: those of the serial line and those of the mailbox. -/
def gates : List Gate :=
  [transmitGate, receiveGate, ⟨.write, .mboxWrite, .mboxStatus, .mboxFull⟩, ⟨.read, .mboxRead, .mboxStatus, .mboxEmpty⟩]

namespace Gate

variable {g : Gate}

/-- The last event is the poll of the gate, and it showed the flag clear. -/
def IsOpen (g : Gate) (c : Cfg) (trace : List Event) : Prop := LastPollClear c g.poll (g.mask.eval c.params) trace

/-- The entry at index `x` makes an access behind the gate. -/
abbrev StandsBefore (g : Gate) (x : StepIx) : Prop := ∃ op ∈ (decodeStep x).entry, accessOf op = some (g.kind, g.reg)

/-- Every access behind the gate came while it was open, and one that is due comes while it is open. -/
structure Kept (g : Gate) (s : State) : Prop where
  gated : ∀ pre v post, s.trace = pre ++ busEvent s.cfg g.kind g.reg v :: post → g.IsOpen s.cfg pre
  due : g.StandsBefore s.step → g.IsOpen s.cfg s.trace

/-- In the microprogram the one way to an access behind a gate is the poll of that gate, left by its flag being clear. -/
theorem poll_of_successor : ∀ g ∈ gates, ∀ x : StepIx, ∀ op ∈ (decodeStep x).entry, ∀ y ∈ successors x op,
    g.StandsBefore y → op = .wtc g.poll (.param g.mask) ∧ y ≠ x := by
  decide

theorem not_standsBefore_first : ∀ g ∈ gates, ¬ g.StandsBefore 0#6 := by
  decide

/-- A poll that is left has shown its flag clear (41_delay_and_wait.md R135). -/
theorem isOpen_of_poll {s t : State} (h : runMicroOp (.wtc g.poll (.param g.mask)) s = .next t) (ht : t.step ≠ s.step) :
    g.IsOpen t.cfg t.trace := by
  simp only [runMicroOp, opWtc_eq, Host.Outcome.next.injEq] at h
  subst h
  split at ht
  · next hmapped =>
    rw [if_pos hmapped]
    split at ht
    · next hclear => exact ⟨s.trace, _, rfl, hclear⟩
    · exact absurd rfl ht
  · exact absurd rfl ht

theorem Kept.initial (hg : g ∈ gates) (c : Cfg) (sc : Script) : g.Kept (State.initial c sc) where
  gated _ _ _ h := by simp at h
  due h := absurd h (not_standsBefore_first g hg)

theorem Kept.raise {s : State} (h : g.Kept s) (f : Fault) : g.Kept (s.raise f) := ⟨h.gated, h.due⟩

/-- The event a step adds to the trace is an access behind the gate only if one was due. -/
theorem Kept.gated_append {s : State} (h : g.Kept s) {op : MicroOp} (hop : op ∈ (decodeStep s.step).entry)
    {es : List Event} (hes : Performs s.cfg op es) {pre post : List Event} {v : Word}
    (htrace : s.trace ++ es = pre ++ busEvent s.cfg g.kind g.reg v :: post) : g.IsOpen s.cfg pre := by
  rcases hes.eq_nil_or_singleton with rfl | ⟨e, rfl⟩
  · exact h.gated pre v post (by simpa using htrace)
  · rcases List.eq_nil_or_concat post with rfl | ⟨post, last, rfl⟩
    · obtain ⟨rfl, he⟩ := List.append_inj' htrace rfl
      have hacc : accessOf op = some (g.kind, g.reg) := hes.accessOf_eq (v := v) (by simp [he])
      exact h.due ⟨op, hop, hacc⟩
    · rw [List.concat_eq_append, ← List.cons_append, ← List.append_assoc] at htrace
      exact h.gated pre v post (List.append_inj_left' htrace rfl)

theorem Kept.of_step (hg : g ∈ gates) {s t : State} (h : g.Kept s) (hst : step s = .next t) : g.Kept t := by
  rcases step_entry hst with ⟨op, hop, hrun⟩ | ⟨-, rfl⟩
  · rcases runMicroOp_raises_or_performs hrun with ⟨f, rfl⟩ | ⟨-, hnext, es, hes, htrace⟩
    · exact h.raise f
    · have hcfg : t.cfg = s.cfg := (runMicroOp_answers hrun).1
      constructor
      · intro pre v post hpre
        rw [htrace, hcfg] at hpre
        rw [hcfg]
        exact h.gated_append hop hes hpre
      · intro hdue
        obtain ⟨rfl, hleft⟩ := poll_of_successor g hg _ op hop _ hnext hdue
        exact isOpen_of_poll hrun hleft
  · exact h.raise _

end Gate

/-- In a run every gate is kept (70_reset_and_hazards.md R266). -/
theorem Reachable.gateKept {s : State} (h : Reachable s) {g : Gate} (hg : g ∈ gates) : g.Kept s := by
  obtain ⟨c, sc, hreach⟩ := h
  exact hreach.keeps (.initial hg c sc) fun _ _ => .of_step hg

/-- Settles O46: the writes of `UART0_DR` are the accesses behind the transmit gate. -/
theorem transmitIsGated : Obligations.TransmitIsGated := fun _ hs =>
  (hs.gateKept (g := transmitGate) (by simp [gates])).gated

/-- Settles O47: the reads of `UART0_DR` are the accesses behind the receive gate. -/
theorem receiveIsGated : Obligations.ReceiveIsGated := fun _ hs =>
  (hs.gateKept (g := receiveGate) (by simp [gates])).gated

end Sys2Proof.Machine
end

section
/-! PROOFS. The echo loop (45_echo_loop.md): the byte latch is written before it is read; what has been sent and what is still
to be sent make up what is owed; one turn of the loop; a run goes on for ever and comes to the wait for a byte. -/

namespace Sys2Proof.Machine

/-! ## The byte latch -/

/-- Settles O45: the invariant has `ch` written at these indices, and no fault but a bus fault. -/
theorem byteLatchIsWrittenBeforeRead : Obligations.ByteLatchIsWrittenBeforeRead := by
  intro s hs
  have h := hs.inv
  constructor
  · rintro (hx | hx | hx) <;> exact h.chWritten (by simp [hx])
  · rcases h.faultKind with hf | ⟨a, k, hf⟩ <;> simp [hf]

/-! ## What is still to be sent

At every index it is known what the block has still to send for what it has taken on: the rest of the greeting, the byte in
the latch, a newline. That the microprogram keeps these accounts is a check of its entries, made once for all indices. -/

/-- Something still to be sent. -/
inductive Due where
  /-- The byte in the latch. -/
  | latched
  /-- The bytes of the greeting not yet taken. -/
  | restOfGreeting
  /-- The newline after a received byte. -/
  | newline
deriving DecidableEq

/-- The bytes it stands for in a state. -/
def Due.bytes (s : State) : Due → List Byte
  | .latched =>
    match s.ch with
    | .unwritten => []
    | .holds b => [b]
  | .restOfGreeting => s.cfg.params.greeting.drop s.si
  | .newline => [Config.newline]

/-- What is to be sent at an index, in order (45_echo_loop.md R225). -/
def dueAt (x : StepIx) : List Due :=
  match x.toNat with
  | 28 | 29 => [.latched, .restOfGreeting]
  | 31 | 32 | 38 => []
  | 33 | 34 => [.latched, .newline]
  | 35 => [.newline]
  | 36 | 37 => [.latched]
  | _ => [.restOfGreeting]

/-- The bytes still to be sent. -/
def unsent (s : State) : List Byte := (dueAt s.step).flatMap (Due.bytes s)

/-- The entry at `x` does not use `UART0_DR`, and wherever it leads the same is to be sent. -/
abbrev SameDue (x : StepIx) (op : MicroOp) : Prop :=
  writtenReg op ≠ some .uart0Dr ∧ accessOf op ≠ some (.read, .uart0Dr) ∧ ∀ y ∈ successors x op, dueAt y = dueAt x

/-- The entry may stand at index `x`: what it takes on or sends is what is to be sent more, or less, where it leads. -/
def accounts (x : StepIx) : MicroOp → Bool
  | .wrb reg => decide (reg = .uart0Dr ∧ dueAt x = .latched :: dueAt (x + 1#6))
  | .rdb reg => decide (reg = .uart0Dr ∧ dueAt x = [] ∧ dueAt (x + 1#6) = [.latched, .newline])
  | .ldc byte => decide (byte = Config.newline ∧ dueAt x = [.newline] ∧ dueAt (x + 1#6) = [.latched])
  | .ldg target =>
    decide (dueAt x = [.restOfGreeting] ∧ dueAt (x + 1#6) = [.latched, .restOfGreeting] ∧ dueAt target = [])
  | op => decide (SameDue x op)

theorem entry_accounts : ∀ x : StepIx, ∀ op ∈ (decodeStep x).entry, accounts x op = true := by
  decide

/-- What has been sent, and then what is still to be sent, is what is owed (45_echo_loop.md R225). -/
def Accounted (s : State) : Prop :=
  writesAt (s.cfg.addr .uart0Dr) s.trace ++ (unsent s).map zext32 = (owedBytes s.cfg s.trace).map zext32

theorem Accounted.initial (c : Cfg) (sc : Script) : Accounted (State.initial c sc) := by
  simp [Accounted, unsent, dueAt, Due.bytes, owedBytes, echoOf, bytesReceived, writesAt, readsAt]

theorem Accounted.raise {s : State} (h : Accounted s) (f : Fault) : Accounted (s.raise f) := h

/-- A micro-operation that does not read a register reads nothing at its address. -/
theorem Performs.readsAt_eq_nil {c : Cfg} {op : MicroOp} {es : List Event} (h : Performs c op es) {reg : Reg}
    (hreg : accessOf op ≠ some (.read, reg)) : readsAt (c.addr reg) es = [] := by
  cases h with
  | rdb q v | wtc q _ v | rdm q _ v =>
    have hq : q ≠ reg := fun hq => hreg (by rw [hq]; rfl)
    simp [readsAt, c.addr_eq_iff, hq]
  | _ => rfl

/-- An entry that neither loads the byte latch nor uses `UART0_DR` changes nothing in the accounts. -/
theorem Accounted.of_sameDue {op : MicroOp} {s t : State} (h : Accounted s) (hsame : SameDue s.step op)
    (hload : ¬ ((∃ r, op = .rdb r) ∨ (∃ u, op = .ldg u) ∨ ∃ b, op = .ldc b)) (hrun : runMicroOp op s = .next t) :
    Accounted t := by
  obtain ⟨hwrite, hread, hdue⟩ := hsame
  rcases runMicroOp_raises_or_performs hrun with ⟨f, rfl⟩ | ⟨-, hnext, es, hes, htrace⟩
  · exact h.raise f
  · obtain ⟨-, hch, -, hsi⟩ := runMicroOp_writers hrun
    replace hch : t.ch = s.ch := of_not_not fun hne => hload (hch hne)
    replace hsi : t.si = s.si := of_not_not fun hne => hload (.inr (.inl (hsi hne).1))
    have hcfg : t.cfg = s.cfg := (runMicroOp_answers hrun).1
    have hbytes : Due.bytes t = Due.bytes s := by
      funext d
      cases d <;> simp only [Due.bytes, hch, hsi, hcfg]
    simpa only [Accounted, unsent, owedBytes, bytesReceived, hcfg, htrace, writesAt_append, readsAt_append,
      hes.writesAt_eq_nil hwrite, hes.readsAt_eq_nil hread, hdue _ hnext, hbytes, List.append_nil] using h

/-- What is to be sent depends on the latch, the string index and the greeting only. -/
theorem unsent_eq (s : State) (x : StepIx) (rd : Latch 32) (trace : List Event) (script : Script) :
    unsent { s with step := x, rd := rd, trace := trace, script := script } = (dueAt x).flatMap (Due.bytes s) := rfl

/-- The byte in the latch is sent, or a fault is raised. -/
theorem Accounted.send {s t : State} (h : Accounted s) (hdue : dueAt s.step = .latched :: dueAt (s.step + 1#6))
    (hrun : opWrb .uart0Dr s = .next t) : Accounted t := by
  rw [opWrb_eq, Host.Outcome.next.injEq] at hrun
  subst hrun
  split
  · exact h.raise _
  · next b hch =>
    split
    · have hunsent : unsent s = b :: (dueAt (s.step + 1#6)).flatMap (Due.bytes s) := by
        simp [unsent, hdue, Due.bytes, hch]
      simpa [Accounted, unsent_eq, hunsent, owedBytes, bytesReceived, writesAt_append, readsAt_append, writesAt,
        readsAt] using h
    · exact h.raise _

/-- A byte received is owed back, followed by a newline. -/
theorem Accounted.receive {s t : State} (h : Accounted s) (hdue : dueAt s.step = [])
    (hdue' : dueAt (s.step + 1#6) = [.latched, .newline]) (hrun : opRdb .uart0Dr s = .next t) : Accounted t := by
  rw [opRdb_eq, Host.Outcome.next.injEq] at hrun
  subst hrun
  split
  · have hsent : writesAt (s.cfg.addr .uart0Dr) s.trace = (owedBytes s.cfg s.trace).map zext32 := by
      simpa [Accounted, unsent, hdue] using h
    simp [Accounted, unsent, hdue', Due.bytes, owedBytes, echoOf, bytesReceived, writesAt_append, readsAt_append,
      writesAt, readsAt, hsent]
  · exact h.raise _

/-- The newline still to be sent is taken into the latch. -/
theorem Accounted.loadNewline {s t : State} (h : Accounted s) (hdue : dueAt s.step = [.newline])
    (hdue' : dueAt (s.step + 1#6) = [.latched]) (hrun : opLdc Config.newline s = .next t) : Accounted t := by
  rw [opLdc_eq, Host.Outcome.next.injEq] at hrun
  subst hrun
  simpa [Accounted, unsent, hdue, hdue', Due.bytes] using h

/-- The next byte of the greeting is taken into the latch, or none is left. -/
theorem Accounted.takeGreetingByte {s t : State} (h : Accounted s) (hle : s.si ≤ s.cfg.greetingLen) {target : StepIx}
    (hdue : dueAt s.step = [.restOfGreeting]) (hdue' : dueAt (s.step + 1#6) = [.latched, .restOfGreeting])
    (hend : dueAt target = []) (hrun : opLdg target s = .next t) : Accounted t := by
  by_cases hsi : s.si = s.cfg.greetingLen
  · rw [opLdg_at_end hsi, Host.Outcome.next.injEq] at hrun
    subst hrun
    have hnone : s.cfg.params.greeting.drop s.si = [] := hsi ▸ List.drop_length
    simpa [Accounted, unsent, hdue, hend, Due.bytes, hnone] using h
  · rw [opLdg_of_ne hsi, Host.Outcome.next.injEq] at hrun
    subst hrun
    have hlt : s.si < s.cfg.params.greeting.length := Nat.lt_of_le_of_ne hle hsi
    have hrest : s.cfg.params.greeting.drop s.si =
        greetingByte s.cfg s.si :: s.cfg.params.greeting.drop (s.si + 1) := by
      rw [greetingByte_of_getElem? (List.getElem?_eq_getElem hlt), List.drop_eq_getElem_cons hlt]
    simpa [Accounted, unsent, hdue, hdue', Due.bytes, hrest] using h

/-- An entry at an index where it accounts keeps the accounts. -/
theorem Accounted.of_accounts {op : MicroOp} {s t : State} (h : Accounted s) (hle : s.si ≤ s.cfg.greetingLen)
    (hop : accounts s.step op = true) (hrun : runMicroOp op s = .next t) : Accounted t := by
  cases op with
  | wrb reg =>
    obtain ⟨rfl, hdue⟩ := of_decide_eq_true hop
    exact h.send hdue hrun
  | rdb reg =>
    obtain ⟨rfl, hdue, hdue'⟩ := of_decide_eq_true hop
    exact h.receive hdue hdue' hrun
  | ldc byte =>
    obtain ⟨rfl, hdue, hdue'⟩ := of_decide_eq_true hop
    exact h.loadNewline hdue hdue' hrun
  | ldg target =>
    obtain ⟨hdue, hdue', hend⟩ := of_decide_eq_true hop
    exact h.takeGreetingByte hle hdue hdue' hend hrun
  | _ => exact h.of_sameDue (of_decide_eq_true hop) (by simp) hrun

theorem Accounted.of_step {s t : State} (hinv : Inv s) (h : Accounted s) (hst : step s = .next t) : Accounted t := by
  rcases step_entry hst with ⟨op, hop, hrun⟩ | ⟨-, rfl⟩
  · exact h.of_accounts hinv.siBound (entry_accounts _ op hop) hrun
  · exact h.raise _

/-- In a run the accounts are kept. -/
theorem Reachable.accounted {s : State} (h : Reachable s) : Accounted s := by
  obtain ⟨c, sc, hreach⟩ := h
  have hkeeps := hreach.keeps (p := fun t => Inv t ∧ Accounted t) ⟨inv_initial c sc, .initial c sc⟩
    fun u v ⟨hinv, hacc⟩ hst => ⟨everyStepKeepsTheInvariant u v hinv hst, hacc.of_step hinv hst⟩
  exact hkeeps.2

/-- A state that holds no fault has a next state: no step halts the sequencer (45_echo_loop.md R225). -/
theorem exists_step {s : State} (hf : s.fault = none) : ∃ t, step s = .next t := by
  rw [step_of_none hf]
  exact exec_next _ s

/-- Settles O59: what has been sent is what is owed but for what is still to be sent, which at steps 31 and 32 is nothing. -/
theorem outputIsGreetingThenEchoes : Obligations.OutputIsGreetingThenEchoes := by
  intro s hs
  have hacc : writesAt (s.cfg.addr .uart0Dr) s.trace ++ (unsent s).map zext32 =
      (owedBytes s.cfg s.trace).map fun b => 0#24 ++ b := by
    simp only [← zext32_eq]
    exact hs.accounted
  refine ⟨⟨_, hacc⟩, fun hx => ?_, exists_step⟩
  have hnone : unsent s = [] := by rcases hx with hx | hx <;> simp [unsent, hx, dueAt]
  simpa [hnone] using hacc

/-! ## One turn of the echo loop -/

theorem envAnswer_of_answer {s : State} {a v : Word} (h : Script.answer s.script a = some v) : s.envAnswer a = v := by
  simp [State.envAnswer, h]

theorem step_of_entry {s : State} {op : MicroOp} (hf : s.fault = none) (hop : (decodeStep s.step).entry = some op) :
    step s = runMicroOp op s := by
  rw [step_of_none hf, exec_of_entry hop]

section Line

variable {s : State} {x : StepIx} {w : Word}

/-- A poll answered with its bit clear by an environment that never changes its answer (41_delay_and_wait.md R132). -/
theorem step_of_clear_poll {reg : Reg} {mask : Const} (hop : (decodeStep s.step).entry = some (.wtc reg mask))
    (hf : s.fault = none) (hmapped : s.cfg.isMapped (s.cfg.addr reg) = true)
    (ha : AlwaysAnswers s.script (s.cfg.addr reg) w) (hclear : w &&& mask.eval s.cfg.params = 0#32) :
    step s = .next { s with
      rd := .holds w, trace := s.trace ++ [.busR (s.cfg.addr reg) w], step := s.step + 1#6 } := by
  obtain ⟨hanswer, hpop⟩ := ha
  rw [step_of_entry hf hop, runMicroOp, opWtc_eq, if_pos hmapped, afterRead, envAnswer_of_answer hanswer, hpop,
    if_pos hclear]

/-- A read that takes a byte from a mapped register (40_mmio_primitives.md R125). -/
theorem step_of_rdb {reg : Reg} {v : Word} (hop : (decodeStep s.step).entry = some (.rdb reg)) (hf : s.fault = none)
    (hmapped : s.cfg.isMapped (s.cfg.addr reg) = true) (hv : Script.answer s.script (s.cfg.addr reg) = some v) :
    step s = .next { s with
      rd := .holds v, ch := .holds (low8 v), script := Script.pop s.script (s.cfg.addr reg),
      trace := s.trace ++ [.busR (s.cfg.addr reg) v], step := s.step + 1#6 } := by
  rw [step_of_entry hf hop, runMicroOp, opRdb_eq, if_pos hmapped, afterRead, envAnswer_of_answer hv]

/-- A write that sends the byte in the latch to a mapped register (40_mmio_primitives.md R123). -/
theorem step_of_wrb {reg : Reg} {b : Byte} (hop : (decodeStep s.step).entry = some (.wrb reg)) (hf : s.fault = none)
    (hmapped : s.cfg.isMapped (s.cfg.addr reg) = true) (hch : s.ch = .holds b) :
    step s = .next { s with trace := s.trace ++ [.busW (s.cfg.addr reg) (zext32 b)], step := s.step + 1#6 } := by
  rw [step_of_entry hf hop, runMicroOp, opWrb_eq, hch]
  simp only [hmapped, if_true, ← hch]

theorem step_of_ldc {b : Byte} (hop : (decodeStep s.step).entry = some (.ldc b)) (hf : s.fault = none) :
    step s = .next { s with ch := .holds b, step := s.step + 1#6 } :=
  step_of_entry hf hop

theorem step_of_jmp {target : StepIx} (hop : (decodeStep s.step).entry = some (.jmp target)) (hf : s.fault = none) :
    step s = .next { s with step := target } :=
  step_of_entry hf hop

/-- `getc` with the flag clear: a poll, then the read that takes the byte (44_uart_io.md R194). -/
theorem run_getc {v : Word} (hx : s.step = x) (hpoll : (decodeStep x).entry = some (.wtc .uart0Fr (.param .frRxfe)))
    (hread : (decodeStep (x + 1#6)).entry = some (.rdb .uart0Dr)) (hf : s.fault = none)
    (hfr : s.cfg.isMapped (s.cfg.addr .uart0Fr) = true) (hdr : s.cfg.isMapped (s.cfg.addr .uart0Dr) = true)
    (ha : AlwaysAnswers s.script (s.cfg.addr .uart0Fr) w) (hclear : w &&& s.cfg.params.frRxfe = 0#32)
    (hv : Script.answer s.script (s.cfg.addr .uart0Dr) = some v) :
    run 2 s = .next { s with
      rd := .holds v, ch := .holds (low8 v), script := Script.pop s.script (s.cfg.addr .uart0Dr),
      trace := s.trace ++ [.busR (s.cfg.addr .uart0Fr) w, .busR (s.cfg.addr .uart0Dr) v], step := x + 1#6 + 1#6 } := by
  subst hx
  refine Eq.trans (run_snoc (run_succ (step_of_clear_poll hpoll hf hfr ha hclear) 0) (step_of_rdb hread hf hdr hv)) ?_
  simp

/-- `putc` with the flag clear: a poll, then the write that sends the byte in the latch (44_uart_io.md R193). -/
theorem run_putc {b : Byte} (hx : s.step = x) (hpoll : (decodeStep x).entry = some (.wtc .uart0Fr (.param .frTxff)))
    (hwrite : (decodeStep (x + 1#6)).entry = some (.wrb .uart0Dr)) (hf : s.fault = none)
    (hfr : s.cfg.isMapped (s.cfg.addr .uart0Fr) = true) (hdr : s.cfg.isMapped (s.cfg.addr .uart0Dr) = true)
    (ha : AlwaysAnswers s.script (s.cfg.addr .uart0Fr) w) (hclear : w &&& s.cfg.params.frTxff = 0#32)
    (hch : s.ch = .holds b) :
    run 2 s = .next { s with
      rd := .holds w, trace := s.trace ++ [.busR (s.cfg.addr .uart0Fr) w, .busW (s.cfg.addr .uart0Dr) (zext32 b)],
      step := x + 1#6 + 1#6 } := by
  subst hx
  refine Eq.trans (run_snoc (run_succ (step_of_clear_poll hpoll hf hfr ha hclear) 0) (step_of_wrb hwrite hf hdr hch)) ?_
  simp

end Line

/-- Settles O58: `getc`, `putc`, the newline, `putc` and the jump back, each from where the one before ends. -/
theorem echoTurn : Obligations.EchoTurn := by
  intro s w v hx hf hfr hdr ha hv htx hrx
  have hpop : AlwaysAnswers (Script.pop s.script (s.cfg.addr .uart0Dr)) (s.cfg.addr .uart0Fr) w := ha.pop _
  -- The side goals in `by` wait until the state they are about is known.
  refine Eq.trans (run_add 6 (run_getc hx rfl rfl hf hfr hdr ha hrx hv)) ?_
  refine Eq.trans (run_add 4 (run_putc rfl rfl rfl hf hfr hdr hpop htx rfl)) ?_
  refine Eq.trans (run_succ (step_of_ldc (by rfl) (by exact hf)) 3) ?_
  refine Eq.trans (run_add 1 (run_putc rfl rfl rfl hf hfr hdr hpop htx rfl)) ?_
  refine Eq.trans (run_succ (step_of_jmp (by rfl) (by exact hf)) 0) ?_
  simp [run, hx, low8_eq, zext32_eq, Config.newline]

/-! ## Going on for ever -/

/-- With everything mapped a micro-operation raises nothing but `F_UNINIT` (60_exceptions.md R232). -/
theorem runMicroOp_fault_of_mapped {op : MicroOp} {s t : State} (hall : AllMapped s.cfg)
    (hindex : ∀ n v, op = .stw n v → n < 9) (h : runMicroOp op s = .next t) :
    t.fault = s.fault ∨ ∃ name, t.fault = some (.fUninit name) := by
  cases op with
  | wr reg value | rdb reg | wtc reg mask =>
    simp only [runMicroOp, opWr_eq, opRdb_eq, opWtc_eq, if_pos (hall.1 reg), Host.Outcome.next.injEq] at h
    subst h
    exact .inl rfl
  | stw index value =>
    simp only [runMicroOp, opStw_eq, if_pos (hall.2 index (hindex index value rfl)), Host.Outcome.next.injEq] at h
    subst h
    exact .inl rfl
  | wrb reg | wrc reg | rdm reg target =>
    simp only [runMicroOp, opWrb_eq, opWrc_eq, opRdm_eq, if_pos (hall.1 reg), Host.Outcome.next.injEq] at h
    subst h
    split
    · exact .inr ⟨_, rfl⟩
    · exact .inl (by simp)
  | dly count | lcw | bnp target | ldc byte | jmp target =>
    simp only [runMicroOp, opDly_eq, opLcw_eq, opBnp_eq, opLdc_eq, opJmp_eq, Host.Outcome.next.injEq] at h
    subst h
    exact .inl rfl
  | ldg target =>
    simp only [runMicroOp, opLdg_eq, Host.Outcome.next.injEq] at h
    subst h
    split <;> exact .inl rfl

/-- With everything mapped no step of a run raises a fault: `F_BUS` needs an unmapped address, and the invariant leaves no
other. -/
theorem Inv.fault_none_of_mapped {s t : State} (h : Inv s) (hall : AllMapped s.cfg) (hst : step s = .next t) :
    t.fault = none := by
  rcases step_entry hst with ⟨op, hop, hrun⟩ | ⟨hnone, -⟩
  · have hindex : ∀ n v, op = .stw n v → n < 9 := fun n v hv => stw_entry_index_lt (hv ▸ hop)
    rcases runMicroOp_fault_of_mapped hall hindex hrun with hsame | ⟨name, huninit⟩
    · exact hsame.trans (fault_none_of_step hst)
    · rcases (everyStepKeepsTheInvariant s t h hst).faultKind with hnone | ⟨a, k, hbus⟩
      · exact hnone
      · exact absurd (huninit.symm.trans hbus) (by simp)
  · exact absurd hnone (entry_isSome_of_le h.stepLegal)

/-- A state of a run on a fully mapped configuration that has met no fault and whose waits end. -/
structure Unhindered (s : State) : Prop where
  inv : Inv s
  mapped : AllMapped s.cfg
  running : s.fault = none
  waits : WaitsEnd s

theorem Reaches.cfg_eq {s t : State} (h : Reaches s t) : t.cfg = s.cfg :=
  h.keeps (p := fun u => u.cfg = s.cfg) rfl fun _ _ hu hst => (cfg_of_step hst).trans hu

theorem Reaches.si_le {s t : State} (h : Reaches s t) : s.si ≤ t.si :=
  h.keeps (p := fun u => s.si ≤ u.si) le_rfl fun _ _ hu hst => hu.trans (si_le_of_step hst)

namespace Unhindered

variable {s t u : State}

theorem of_run (h : Unhindered s) {n : Nat} (hrun : run n s = .next t) : Unhindered t := by
  have hreach := Reaches.of_run n hrun
  have hkeeps := hreach.keeps (p := fun u => Inv u ∧ AllMapped u.cfg ∧ u.fault = none)
    ⟨h.inv, h.mapped, h.running⟩ fun u v ⟨hinv, hall, _⟩ hst =>
      ⟨everyStepKeepsTheInvariant u v hinv hst, cfg_of_step hst ▸ hall, hinv.fault_none_of_mapped hall hst⟩
  obtain ⟨hinv, hall, hf⟩ := hkeeps
  exact ⟨hinv, hall, hf, h.waits.of_run hrun hreach.cfg_eq⟩

theorem exists_entry (h : Unhindered s) : ∃ op, (decodeStep s.step).entry = some op :=
  Option.ne_none_iff_exists'.1 (entry_isSome_of_le h.inv.stepLegal)

/-! ### The mailbox receive ends -/

/-- Step 21 reads `MBOX_READ`, and the exchange ends or another round begins (42_mailbox.md R144). -/
theorem exists_receive (h : Unhindered s) (hx : s.step = 21#6) : ∃ v t, step s = .next t ∧
    t.trace = s.trace ++ [.busR (s.cfg.addr .mboxRead) v] ∧
    t.step = if v = channelWordOf s.cfg.bufAddr then 22#6 else 20#6 := by
  obtain ⟨w, hcw, -⟩ := h.inv.cw_channel (by rw [hx]; decide)
  have hw := h.inv.cwValue w hcw
  have hop : (decodeStep s.step).entry = some (.rdm .mboxRead 20#6) := by rw [hx]; rfl
  rw [step_of_entry h.running hop, runMicroOp, opRdm_eq, hcw]
  simp only [h.mapped.1 .mboxRead, if_true, hw]
  exact ⟨s.envAnswer (s.cfg.addr .mboxRead), _, rfl, rfl, by rw [hx]; rfl⟩

/-- One round of the receive: the read, and if it does not match, the poll until the flag is clear. -/
theorem exists_round (h : Unhindered s) (hx : s.step = 21#6) :
    ∃ n t, run (n + 1) s = .next t ∧ (t.step = 22#6 ∨ t.step = 21#6) := by
  obtain ⟨v, t, hst, -, ht⟩ := h.exists_receive hx
  split at ht
  · exact ⟨0, t, run_succ hst 0, .inl ht⟩
  · have hrun : run 1 s = .next t := run_succ hst 0
    have h' := h.of_run hrun
    have hop : (decodeStep t.step).entry = some (.wtc .mboxStatus (.param .mboxEmpty)) := by rw [ht]; rfl
    obtain ⟨n, u, -, hpoll⟩ := poll_left (exec_of_entry hop) h'.running (h'.mapped.1 _) h'.waits.mailboxNotEmpty
    refine ⟨n + 1, _, (run_succ hst _).trans hpoll, .inr ?_⟩
    rw [ht]
    rfl

end Unhindered

/-- Only step 21 reads `MBOX_READ` (42_mailbox.md R158). -/
theorem step_eq_of_reads_mboxRead : ∀ x : StepIx, ∀ op ∈ (decodeStep x).entry,
    accessOf op = some (.read, .mboxRead) → x = 21#6 := by
  decide

theorem step_eq_of_mboxRead_event {s t : State} {v : Word} (hst : step s = .next t)
    (htrace : t.trace = s.trace ++ [.busR (s.cfg.addr .mboxRead) v]) : s.step = 21#6 := by
  rcases step_raises_or_performs hst with ⟨f, rfl⟩ | ⟨op, hop, -, es, hes, ht⟩
  · exact absurd (congrArg List.length htrace) (by simp)
  · obtain rfl := List.append_cancel_left (ht.symm.trans htrace)
    exact step_eq_of_reads_mboxRead _ op hop (hes.accessOf_eq (kind := .read) (v := v) (List.mem_singleton_self _))

/-- Were the exchange never left, `MBOX_READ` would be read again and again, so some read would match and end it
(70_reset_and_hazards.md R272). -/
theorem Unhindered.leaves_exchange {s : State} (h : Unhindered s) (hx : s.step = 21#6) :
    ∃ n t, run n s = .next t ∧ t.step = 22#6 := by
  by_contra hno
  have rounds (k : Nat) : ∃ m t, k ≤ m ∧ run m s = .next t ∧ t.step = 21#6 := by
    induction k with
    | zero => exact ⟨0, s, le_rfl, rfl, hx⟩
    | succ k ih =>
      obtain ⟨m, t, hm, hrun, ht⟩ := ih
      obtain ⟨n, u, hround, hu⟩ := (h.of_run hrun).exists_round ht
      have hrun' : run (m + (n + 1)) s = .next u := (run_add _ hrun).trans hround
      rcases hu with hu | hu
      · exact absurd ⟨_, u, hrun', hu⟩ hno
      · exact ⟨_, u, by omega, hrun', hu⟩
  have forever : ReadForEver s .mboxRead := by
    intro k
    obtain ⟨m, t, hm, hrun, ht⟩ := rounds k
    obtain ⟨v, u, hst, htrace, -⟩ := (h.of_run hrun).exists_receive ht
    exact ⟨m, v, hm, t, u, hrun, hst, htrace⟩
  obtain ⟨n, v, -, ⟨t, u, hrun, hst, htrace⟩, hmatch⟩ := h.waits.matched forever 0
  have ht := step_eq_of_mboxRead_event hst htrace
  obtain ⟨v', u', hst', htrace', hu⟩ := (h.of_run hrun).exists_receive ht
  obtain rfl := Host.Outcome.next.inj (hst.symm.trans hst')
  have hv : v' = v := by simpa [htrace] using htrace'.symm
  rw [hv, (Reaches.of_run n hrun).cfg_eq, if_pos hmatch] at hu
  exact hno ⟨n + 1, u, run_snoc hrun hst, hu⟩

/-! ### Coming to the wait for a byte -/

/-- How far an index is from step 31, in steps that go through; each byte of the greeting counts four more. -/
def stepsToWait (x : StepIx) : Nat :=
  if x.toNat ≤ 27 then 28 - x.toNat
  else if x.toNat ≤ 30 then 32 - x.toNat
  else if x.toNat = 31 then 0
  else 39 - x.toNat

/-- What a run has before it until it is at step 31. -/
def distance (s : State) : Nat := 4 * (s.cfg.greetingLen - s.si) + stepsToWait s.step

/-- The polls that are named in the premises (70_reset_and_hazards.md R272). -/
def namedWaits : List (Reg × Const) :=
  [(.uart0Fr, .param .frTxff), (.mboxStatus, .param .mboxFull), (.mboxStatus, .param .mboxEmpty)]

/-- The entry at `x` comes nearer to step 31, once it goes through. -/
def approaches (x : StepIx) : MicroOp → Bool
  | .wtc reg mask => decide ((reg, mask) ∈ namedWaits ∧ stepsToWait (x + 1#6) < stepsToWait x)
  | .rdm _ _ => decide (x = 21#6)
  | .ldg target => decide (stepsToWait target < stepsToWait x ∧ stepsToWait (x + 1#6) < stepsToWait x + 4)
  | op => decide (∀ y ∈ successors x op, stepsToWait y < stepsToWait x)

theorem entry_approaches : ∀ x : StepIx, x ≠ 31#6 → ∀ op ∈ (decodeStep x).entry, approaches x op = true := by
  decide

theorem distance_lt {s t : State} (hreach : Reaches s t) (h : stepsToWait t.step < stepsToWait s.step) :
    distance t < distance s := by
  have := hreach.si_le
  rw [distance, distance, hreach.cfg_eq]
  omega

namespace Unhindered

variable {s : State}

theorem clears (h : Unhindered s) {reg : Reg} {mask : Const} (hmem : (reg, mask) ∈ namedWaits) :
    EventuallyClear s reg (mask.eval s.cfg.params) := by
  simp only [namedWaits, List.mem_cons, Prod.mk.injEq, List.not_mem_nil, or_false] at hmem
  rcases hmem with ⟨rfl, rfl⟩ | ⟨rfl, rfl⟩ | ⟨rfl, rfl⟩
  · exact h.waits.txReady
  · exact h.waits.mailboxNotFull
  · exact h.waits.mailboxNotEmpty

/-- Away from step 31 a run comes nearer to it, by the kind of the entry. -/
theorem comes_nearer (h : Unhindered s) (hx : s.step ≠ 31#6) : ∃ n t, run n s = .next t ∧ distance t < distance s := by
  obtain ⟨op, hop⟩ := h.exists_entry
  have hnear := entry_approaches s.step hx op hop
  obtain ⟨t, hst⟩ := exists_step h.running
  have hrun : run 1 s = .next t := run_succ hst 0
  have hmicro : runMicroOp op s = .next t := (step_of_entry h.running hop).symm.trans hst
  cases op with
  | wtc reg mask =>
    obtain ⟨hmem, hless⟩ := of_decide_eq_true hnear
    obtain ⟨n, u, -, hpoll⟩ := poll_left (exec_of_entry hop) h.running (h.mapped.1 reg) (h.clears hmem)
    exact ⟨n + 1, _, hpoll, distance_lt (.of_run _ hpoll) hless⟩
  | rdm reg target =>
    have hx : s.step = 21#6 := of_decide_eq_true hnear
    obtain ⟨n, u, hrun, hu⟩ := h.leaves_exchange hx
    exact ⟨n, u, hrun, distance_lt (.of_run n hrun) (by rw [hu, hx]; decide)⟩
  | ldg target =>
    obtain ⟨hend, hnext⟩ := of_decide_eq_true hnear
    refine ⟨1, t, hrun, ?_⟩
    by_cases hsi : s.si = s.cfg.greetingLen
    · rw [runMicroOp, opLdg_at_end hsi, Host.Outcome.next.injEq] at hmicro
      exact distance_lt (.of_run 1 hrun) (hmicro ▸ hend)
    · rw [runMicroOp, opLdg_of_ne hsi, Host.Outcome.next.injEq] at hmicro
      have hle := h.inv.siBound
      subst hmicro
      simp only [distance]
      omega
  | _ =>
    rcases runMicroOp_raises_or_performs hmicro with ⟨f, rfl⟩ | ⟨-, hnext, -⟩
    · exact absurd (h.of_run hrun).running (by simp)
    · exact ⟨1, t, hrun, distance_lt (.of_run 1 hrun) (of_decide_eq_true hnear _ hnext)⟩

/-- A run whose waits end comes to the wait for a byte. -/
theorem comes_to_wait (h : Unhindered s) : ∃ n t, run n s = .next t ∧ t.step = 31#6 := by
  induction hd : distance s using Nat.strong_induction_on generalizing s with
  | _ d ih =>
    by_cases hx : s.step = 31#6
    · exact ⟨0, s, rfl, hx⟩
    · obtain ⟨m, t, hrun, hless⟩ := h.comes_nearer hx
      obtain ⟨n, u, hrun', hu⟩ := ih _ (hd ▸ hless) (h.of_run hrun) rfl
      exact ⟨m + n, u, (run_add n hrun).trans hrun', hu⟩

end Unhindered

theorem Reachable.of_reaches {s t : State} (hs : Reachable s) (h : Reaches s t) : Reachable t :=
  h.keeps hs fun _ _ ⟨c, sc, hu⟩ hst => ⟨c, sc, .next hu hst⟩

/-- Settles O60: under the premises the run comes to step 31, where nothing is still to be sent. -/
theorem runsGoOnForEver : Obligations.RunsGoOnForEver := by
  intro s hs hf
  constructor
  · obtain ⟨t, hst⟩ := exists_step hf
    exact ⟨t, hst, fun hall => hs.inv.fault_none_of_mapped hall hst⟩
  · intro hall hwaits
    have h : Unhindered s := ⟨hs.inv, hall, hf, hwaits⟩
    obtain ⟨n, t, hrun, ht⟩ := h.comes_to_wait
    have hreach := Reaches.of_run n hrun
    obtain ⟨-, hsent, -⟩ := outputIsGreetingThenEchoes t (hs.of_reaches hreach)
    exact ⟨n, t, hrun, ht, (h.of_run hrun).running, hreach.cfg_eq ▸ hsent (.inl ht)⟩

end Sys2Proof.Machine
end

section
/-! PROOFS. Exceptions (60_exceptions.md): what raises a fault and that it is final, a configuration that never meets
`F_BUS`, the refusals of a configuration and their order, the reserved indices. -/

namespace Sys2Proof

open Machine

/-! ## Faults -/

theorem Machine.eq_raise_of_step {s t : State} {f : Fault} (h : step s = .next t) (hf : t.fault = some f) :
    t = s.raise f := by
  have hnone := fault_none_of_step h
  have hraise : ∃ g, t = s.raise g := by
    rcases step_entry h with ⟨op, -, hrun⟩ | ⟨-, rfl⟩
    · rcases runMicroOp_raises_or_performs hrun with hraise | ⟨hsame, -, -⟩
      · exact hraise
      · exact absurd (hf.symm.trans (hsame.trans hnone)) (by simp)
    · exact ⟨_, rfl⟩
  obtain ⟨g, rfl⟩ := hraise
  rw [Option.some.inj hf]

theorem Machine.Reaches.eq_of_fault {s t : State} {f : Fault} (hf : s.fault = some f) (h : Reaches s t) : t = s :=
  h.keeps (p := fun u => u = s) rfl fun _ _ hu hst => by
    subst hu
    exact absurd ((step_of_fault hf).symm.trans hst) nofun

/-- Settles O32: a step that raises answers `State.raise`, and a run from a faulted state stays where it is. -/
theorem faultsAreFinal : Obligations.FaultsAreFinal := by
  refine ⟨fun s t h hf => ?_, fun s f hf => ⟨step_of_fault hf, fun t h => h.eq_of_fault hf⟩⟩
  obtain ⟨f, hf⟩ := Option.ne_none_iff_exists'.1 hf
  rw [hf]
  exact eq_raise_of_step h hf

/-- Settles O33: with everything mapped an entry raises at most `F_UNINIT`, and an index without one raises `F_STEP`. -/
theorem mappedConfigurationHasNoBusFault : Obligations.MappedConfigurationHasNoBusFault := by
  intro s t hall h a k
  rcases step_entry h with ⟨op, hop, hrun⟩ | ⟨-, rfl⟩
  · have hindex : ∀ n v, op = .stw n v → n < 9 := fun n v hv => stw_entry_index_lt (hv ▸ hop)
    rcases runMicroOp_fault_of_mapped hall hindex hrun with hsame | ⟨name, huninit⟩
    · simp [hsame, fault_none_of_step h]
    · simp [huninit]
  · simp

/-! ## Refusals of a configuration -/

theorem Cfg.build_of_cfgCheck {b : BoardProfile} {p : Params} {e : CfgError} (h : cfgCheck b p = some e) :
    Cfg.build [b] p = .error e := by
  rcases Cfg.build_single b p with ⟨c, -, hnone, -⟩ | ⟨e', hbuild, he'⟩
  · exact absurd (hnone.symm.trans h) nofun
  · rw [hbuild, Option.some.inj (he'.symm.trans h)]

theorem boot_of_misaligned {p : Params} (h : alignedBuffer p = false) (b : BoardProfile) (sc : Script) :
    boot [b] p sc = .refused (.fAlign p.mboxBufAddr) := by
  have hcheck : cfgCheck b p = some (.align p.mboxBufAddr) := by simp [cfgCheck, h]
  rw [boot, Cfg.build_of_cfgCheck hcheck]

theorem boot_of_failed_clause {b : BoardProfile} {p : Params} {k : Clause} (h : cfgCheck b p = some (.clause k))
    (sc : Script) : boot [b] p sc = .refused (.fConfig k) := by
  rw [boot, Cfg.build_of_cfgCheck h]

/-- Settles O37: alignment is the first check on a profile, and no step answers a refusal. -/
theorem misalignedBufferIsRefused : Obligations.MisalignedBufferIsRefused := by
  refine ⟨fun b p sc h => boot_of_misaligned ?_ b sc, step_not_refused⟩
  rw [← Bool.not_eq_true, alignedBuffer_iff, ← extractLsb'_low4_eq_zero_iff]
  exact h

/-- Settles O38: a number of profiles other than one is refused before any check; each later clause is the first to fail
where those before it hold. -/
theorem configurationChecksHaveTheirOrder : Obligations.ConfigurationChecksHaveTheirOrder := by
  intro profiles p sc
  refine ⟨fun hone => by rw [boot, Cfg.build_other hone], ?_⟩
  rintro b rfl haligned
  refine ⟨fun hc => ?_, fun hc hd => ?_, fun hc hd he => ?_, fun hc hd he hf => ?_, fun hc hd he hf hg => ?_⟩
  · exact boot_of_failed_clause (by simp [cfgCheck, haligned, hc]) sc
  · exact boot_of_failed_clause (by simp [cfgCheck, haligned, hc, hd]) sc
  · exact boot_of_failed_clause (by simp [cfgCheck, haligned, hc, hd, he]) sc
  · exact boot_of_failed_clause (by simp [cfgCheck, haligned, hc, hd, he, hf]) sc
  · exact boot_of_failed_clause (by simp [cfgCheck, haligned, hc, hd, he, hf, hg]) sc

/-! ## Reserved indices -/

theorem entry_eq_none_of_ge {x : StepIx} (hx : 39 ≤ x.toNat) : (decodeStep x).entry = none := by
  revert x
  decide

/-- Settles O24: such an index has no entry, and a row without one raises `F_STEP` with its index. -/
theorem reservedIndexRaisesStepFault : Obligations.ReservedIndexRaisesStepFault := by
  intro s hx hf
  have hnone := entry_eq_none_of_ge hx
  refine ⟨hnone, ?_⟩
  rw [step_of_none hf]
  exact exec_of_no_entry (encode_decodeStep s.step) hnone s

end Sys2Proof
end

section
/-! PROOFS. Reset and hazards (70_reset_and_hazards.md): poll before access holds at reset and every step keeps it; the
invariant says of the four gates that each is kept. -/

namespace Sys2Proof.Machine

/-! ## The invariant of the gates -/

/-- A write of `MBOX_WRITE` waits for room in the mailbox (42_mailbox.md R155). -/
def sendGate : Gate := ⟨.write, .mboxWrite, .mboxStatus, .mboxFull⟩

/-- A read of `MBOX_READ` waits for a word in the mailbox (42_mailbox.md R157). -/
def recvGate : Gate := ⟨.read, .mboxRead, .mboxStatus, .mboxEmpty⟩

namespace Gate

theorem forall_mem_gates {p : Gate → Prop} :
    (∀ g ∈ gates, p g) ↔ p transmitGate ∧ p receiveGate ∧ p sendGate ∧ p recvGate := by
  simp [gates, sendGate, recvGate]

theorem transmit_standsBefore_iff :
    ∀ x : StepIx, transmitGate.StandsBefore x ↔ x = 29#6 ∨ x = 34#6 ∨ x = 37#6 := by
  decide

theorem receive_standsBefore_iff : ∀ x : StepIx, receiveGate.StandsBefore x ↔ x = 32#6 := by
  decide

theorem send_standsBefore_iff : ∀ x : StepIx, sendGate.StandsBefore x ↔ x = 19#6 := by
  decide

theorem recv_standsBefore_iff : ∀ x : StepIx, recvGate.StandsBefore x ↔ x = 21#6 := by
  decide

end Gate

open Gate in
/-- The step indices the invariant names are those of the accesses behind each gate. -/
theorem gateInv_iff {s : State} : GateInv s ↔ ∀ g ∈ gates, g.Kept s := by
  rw [forall_mem_gates]
  constructor
  · intro h
    exact ⟨⟨h.txGated, fun hdue => h.beforeTx ((transmit_standsBefore_iff _).1 hdue)⟩,
      ⟨h.rxGated, fun hdue => h.beforeRx ((receive_standsBefore_iff _).1 hdue)⟩,
      ⟨h.sendGated, fun hdue => h.beforeSend ((send_standsBefore_iff _).1 hdue)⟩,
      ⟨h.recvGated, fun hdue => h.beforeRecv ((recv_standsBefore_iff _).1 hdue)⟩⟩
  · rintro ⟨tx, rx, send, recv⟩
    exact {
      txGated := tx.gated
      rxGated := rx.gated
      sendGated := send.gated
      recvGated := recv.gated
      beforeTx := fun hx => tx.due ((transmit_standsBefore_iff _).2 hx)
      beforeRx := fun hx => rx.due ((receive_standsBefore_iff _).2 hx)
      beforeSend := fun hx => send.due ((send_standsBefore_iff _).2 hx)
      beforeRecv := fun hx => recv.due ((recv_standsBefore_iff _).2 hx) }

/-- Settles O43: every gate is kept at reset, where the trace is empty and no access is due. -/
theorem resetMeetsTheGates : Obligations.ResetMeetsTheGates := fun c sc =>
  gateInv_iff.2 fun _ hg => .initial hg c sc

/-- Settles O44: every step keeps each gate, since the one way to an access is the gate's own poll, left by a clear flag. -/
theorem everyStepKeepsTheGates : Obligations.EveryStepKeepsTheGates := fun _ _ h hst =>
  gateInv_iff.2 fun g hg => (gateInv_iff.1 h g hg).of_step hg hst

end Sys2Proof.Machine
end
